-- ==== Sys2Proof/Word.lean ====
section
/-! DEFINITION. The word types of the block (00_scope.md R10, R13; 30_encoding.md R101). -/

namespace Sys2Proof

/-- A byte: 8 bits, bit 0 the least significant (R10). All register cells are bytes. -/
abbrev Byte := BitVec 8

/-- A 16-bit bus address (R10). -/
abbrev Addr := BitVec 16

/-- A resolved colour: 15 bits, 4:0 red, 9:5 green, 14:10 blue (R13). No rule does arithmetic on it. -/
abbrev Color := BitVec 15

/-- A pixel index 0..3, produced by tile decoding before palette lookup (30_encoding.md R122). -/
abbrev PixelIndex := BitVec 2

/-- A palette selector 0..7 (41_palette.md R200). -/
abbrev PaletteSelector := BitVec 3

/-- The 26-bit transaction word `T` of 30_encoding.md R101. -/
abbrev TransWord := BitVec 26

end Sys2Proof
end

