-- ==== Sys2Proof/Config.lean ====
section
/-! DEFINITION. The implementation parameters (00_scope.md R6) and the names of the registers. -/

namespace Sys2Proof

/-- The console generation, selected once at construction (R1, R6). -/
inductive Variant where
  /-- monochrome: fixed palette, no HDMA -/
  | mono
  /-- colour: programmable palettes, HDMA, a second video-memory bank for sprites -/
  | color
deriving DecidableEq, Repr

/-- The parameters of R6. They are fixed before reset and no transaction changes them. -/
structure Config where
  /-- `VARIANT` -/
  variant     : Variant
  /-- `SHADE[0..3]`, used only in MONO -/
  shade       : Vector Color 4
  /-- `RESET_LCDC` -/
  resetLcdc   : Byte
  /-- `RESET_STAT_EN` -/
  resetStatEn : BitVec 4
deriving DecidableEq, Repr

/-- The default values R6 gives for its open parameters, for a given variant. -/
def Config.defaults (v : Variant) : Config where
  variant     := v
  shade       := #v[0x7FFF#15, 0x56B5#15, 0x294A#15, 0x0000#15]
  resetLcdc   := 0x91#8
  resetStatEn := 0b0000#4

/-- The parameters of `State.reset`.
DESIGN CHOICE (log 1, unsafe for claims about `State.reset` alone): R6 leaves `VARIANT` open; this takes COLOR, under
which the block answers 18 of its 21 registers. Every other definition reads the parameters from the state. -/
def Config.initial : Config := Config.defaults .color

/-- The 21 registers of the address map (30_encoding.md R102). -/
inductive Reg where
  | lcdc | stat | scy | scx | ly | lyc | dma | bgp | obp0 | obp1 | wy | wx
  | hdma1 | hdma2 | hdma3 | hdma4 | hdma5
  | bcps | bcpd | ocps | ocpd
deriving DecidableEq, Repr

end Sys2Proof
end

