-- ==== Sys2Proof/Syntax.lean ====
section
/-! DEFINITION. The transactions of the block: one constructor per row of spec/opcode_table.json (30_encoding.md R100 to R102). -/

namespace Sys2Proof

/-- A transaction the driver issues at the block's ports (R100). `RD` ignores the value byte of its word and `RESET` its low
24 bits (R101), so neither carries an operand. -/
inductive Instr where
  /-- `RD LCDC` (R140) -/
  | rdLcdc
  /-- `WR LCDC, val` (R141) -/
  | wrLcdc (val : Byte)
  /-- `RD STAT` (R142) -/
  | rdStat
  /-- `WR STAT, val` (R143) -/
  | wrStat (val : Byte)
  /-- `RD SCY` (R144) -/
  | rdScy
  /-- `WR SCY, val` (R145) -/
  | wrScy (val : Byte)
  /-- `RD SCX` (R146) -/
  | rdScx
  /-- `WR SCX, val` (R147) -/
  | wrScx (val : Byte)
  /-- `RD LY` (R148) -/
  | rdLy
  /-- `WR LY, val` (R149) -/
  | wrLy (val : Byte)
  /-- `RD LYC` (R150) -/
  | rdLyc
  /-- `WR LYC, val` (R151) -/
  | wrLyc (val : Byte)
  /-- `RD DMA` (R240) -/
  | rdDma
  /-- `WR DMA, val` (R241) -/
  | wrDma (val : Byte)
  /-- `RD BGP` (R211) -/
  | rdBgp
  /-- `WR BGP, val` (R212) -/
  | wrBgp (val : Byte)
  /-- `RD OBP0` (R213) -/
  | rdObp0
  /-- `WR OBP0, val` (R214) -/
  | wrObp0 (val : Byte)
  /-- `RD OBP1` (R215) -/
  | rdObp1
  /-- `WR OBP1, val` (R216) -/
  | wrObp1 (val : Byte)
  /-- `RD WY` (R152) -/
  | rdWy
  /-- `WR WY, val` (R153) -/
  | wrWy (val : Byte)
  /-- `RD WX` (R154) -/
  | rdWx
  /-- `WR WX, val` (R155) -/
  | wrWx (val : Byte)
  /-- `RD HDMA1` (R255) -/
  | rdHdma1
  /-- `WR HDMA1, val` (R256) -/
  | wrHdma1 (val : Byte)
  /-- `RD HDMA2` (R257) -/
  | rdHdma2
  /-- `WR HDMA2, val` (R258) -/
  | wrHdma2 (val : Byte)
  /-- `RD HDMA3` (R259) -/
  | rdHdma3
  /-- `WR HDMA3, val` (R260) -/
  | wrHdma3 (val : Byte)
  /-- `RD HDMA4` (R261) -/
  | rdHdma4
  /-- `WR HDMA4, val` (R262) -/
  | wrHdma4 (val : Byte)
  /-- `RD HDMA5` (R253) -/
  | rdHdma5
  /-- `WR HDMA5, val` (R254) -/
  | wrHdma5 (val : Byte)
  /-- `RD BCPS` (R204) -/
  | rdBcps
  /-- `WR BCPS, val` (R205) -/
  | wrBcps (val : Byte)
  /-- `RD BCPD` (R206) -/
  | rdBcpd
  /-- `WR BCPD, val` (R207) -/
  | wrBcpd (val : Byte)
  /-- `RD OCPS` (R208) -/
  | rdOcps
  /-- `WR OCPS, val` (R209) -/
  | wrOcps (val : Byte)
  /-- `RD OCPD` (R217) -/
  | rdOcpd
  /-- `WR OCPD, val` (R210) -/
  | wrOcpd (val : Byte)
  /-- `TICK n` (R266): `n` is a natural number of cycles, without bound (30_encoding.md R126). -/
  | tick (n : Nat)
  /-- `RESET` (R370) -/
  | reset
deriving DecidableEq, Repr

end Sys2Proof
end

