-- ==== Sys2Proof/WellFormed.lean ====
section
/-! DEFINITION. Which transactions have a transaction word (30_encoding.md R101). -/

namespace Sys2Proof

/-- A transaction is well formed when it has a word of its own: every `RD`, every `WR` and `RESET` has one; a `TICK` has one
when its cycle count fits the word's 24 bits, a longer one being written as several (R101). The machine runs a `TICK` of any
length. -/
def Instr.wellFormed : Instr → Bool
  | .tick n => decide (n < 2 ^ 24)
  | .rdLcdc | .wrLcdc _
  | .rdStat | .wrStat _
  | .rdScy | .wrScy _
  | .rdScx | .wrScx _
  | .rdLy | .wrLy _
  | .rdLyc | .wrLyc _
  | .rdDma | .wrDma _
  | .rdBgp | .wrBgp _
  | .rdObp0 | .wrObp0 _
  | .rdObp1 | .wrObp1 _
  | .rdWy | .wrWy _
  | .rdWx | .wrWx _
  | .rdHdma1 | .wrHdma1 _
  | .rdHdma2 | .wrHdma2 _
  | .rdHdma3 | .wrHdma3 _
  | .rdHdma4 | .wrHdma4 _
  | .rdHdma5 | .wrHdma5 _
  | .rdBcps | .wrBcps _
  | .rdBcpd | .wrBcpd _
  | .rdOcps | .wrOcps _
  | .rdOcpd | .wrOcpd _
  | .reset => true

end Sys2Proof
end

