-- ==== Sys2Proof/Decode.lean ====
section
/-! DEFINITION. The address map (30_encoding.md R102), the decoder of transaction words (R101), and the encoder. -/

namespace Sys2Proof

/-- The fixed address of each register (R102). -/
def Reg.addr : Reg → Addr
  | .lcdc => 0xFF40#16
  | .stat => 0xFF41#16
  | .scy => 0xFF42#16
  | .scx => 0xFF43#16
  | .ly => 0xFF44#16
  | .lyc => 0xFF45#16
  | .dma => 0xFF46#16
  | .bgp => 0xFF47#16
  | .obp0 => 0xFF48#16
  | .obp1 => 0xFF49#16
  | .wy => 0xFF4A#16
  | .wx => 0xFF4B#16
  | .hdma1 => 0xFF51#16
  | .hdma2 => 0xFF52#16
  | .hdma3 => 0xFF53#16
  | .hdma4 => 0xFF54#16
  | .hdma5 => 0xFF55#16
  | .bcps => 0xFF68#16
  | .bcpd => 0xFF69#16
  | .ocps => 0xFF6A#16
  | .ocpd => 0xFF6B#16

/-- Whether the address map's variant column includes `v` (R102). -/
def Reg.inVariant : Reg → Variant → Bool
  | .bgp, v | .obp0, v | .obp1, v => v == .mono
  | .hdma1, v | .hdma2, v | .hdma3, v | .hdma4, v | .hdma5, v => v == .color
  | .bcps, v | .bcpd, v | .ocps, v | .ocpd, v => v == .color
  | .lcdc, _ | .stat, _ | .scy, _ | .scx, _ | .ly, _ | .lyc, _ | .dma, _ | .wy, _ | .wx, _ => true

/-- The rows of the address map, in its order (R102). -/
def Reg.all : List Reg :=
  [.lcdc, .stat, .scy, .scx, .ly, .lyc, .dma, .bgp, .obp0, .obp1, .wy, .wx,
   .hdma1, .hdma2, .hdma3, .hdma4, .hdma5, .bcps, .bcpd, .ocps, .ocpd]

/-- The register whose row of the address map names the address, in either variant (R102). -/
def regAt (a : Addr) : Option Reg := Reg.all.find? (fun r => r.addr == a)

/-- The register a bus transaction at this address reaches in this variant, if the block accepts the address (R71, R102). -/
def acceptedReg (v : Variant) (a : Addr) : Option Reg := (regAt a).filter (fun r => r.inVariant v)

/-- `accepts(addr)` (R102). -/
def accepts (v : Variant) (a : Addr) : Bool := (acceptedReg v a).isSome

/-- The `RD` row of a register. -/
def rdInstr : Reg → Instr
  | .lcdc => .rdLcdc
  | .stat => .rdStat
  | .scy => .rdScy
  | .scx => .rdScx
  | .ly => .rdLy
  | .lyc => .rdLyc
  | .dma => .rdDma
  | .bgp => .rdBgp
  | .obp0 => .rdObp0
  | .obp1 => .rdObp1
  | .wy => .rdWy
  | .wx => .rdWx
  | .hdma1 => .rdHdma1
  | .hdma2 => .rdHdma2
  | .hdma3 => .rdHdma3
  | .hdma4 => .rdHdma4
  | .hdma5 => .rdHdma5
  | .bcps => .rdBcps
  | .bcpd => .rdBcpd
  | .ocps => .rdOcps
  | .ocpd => .rdOcpd

/-- The `WR` row of a register. -/
def wrInstr (val : Byte) : Reg → Instr
  | .lcdc => .wrLcdc val
  | .stat => .wrStat val
  | .scy => .wrScy val
  | .scx => .wrScx val
  | .ly => .wrLy val
  | .lyc => .wrLyc val
  | .dma => .wrDma val
  | .bgp => .wrBgp val
  | .obp0 => .wrObp0 val
  | .obp1 => .wrObp1 val
  | .wy => .wrWy val
  | .wx => .wrWx val
  | .hdma1 => .wrHdma1 val
  | .hdma2 => .wrHdma2 val
  | .hdma3 => .wrHdma3 val
  | .hdma4 => .wrHdma4 val
  | .hdma5 => .wrHdma5 val
  | .bcps => .wrBcps val
  | .bcpd => .wrBcpd val
  | .ocps => .wrOcps val
  | .ocpd => .wrOcpd val

/-- Why a transaction word is no row of the opcode table: a bus transaction at an address no row names. It is not illegal;
the platform answers it (30_encoding.md R130), see `Sys2Proof.Machine.platformRead` and `platformWrite`. -/
inductive DecodeError where
  /-- `RD` of an address outside the address map -/
  | unlistedRead (addr : Addr)
  /-- `WR` of an address outside the address map -/
  | unlistedWrite (addr : Addr) (val : Byte)
deriving DecidableEq, Repr

/-- `T[25:24]`, the kind: 0 `RD`, 1 `WR`, 2 `TICK`, 3 `RESET` (R101). -/
def TransWord.kind (w : TransWord) : BitVec 2 := w.extractLsb' 24 2

/-- `T[23:8]`, the address of an `RD` or `WR` (R101). -/
def TransWord.addr (w : TransWord) : Addr := w.extractLsb' 8 16

/-- `T[7:0]`, the value of a `WR` (R101). -/
def TransWord.val (w : TransWord) : Byte := w.extractLsb' 0 8

/-- `T[23:0]`, the cycle count of a `TICK` (R101). -/
def TransWord.count (w : TransWord) : BitVec 24 := w.extractLsb' 0 24

/-- Decoding of a transaction word (R101, R102), total on all `2^26` words. No mode bit and no variant takes part (R100). -/
def decode (w : TransWord) : Except DecodeError Instr :=
  if TransWord.kind w = 0 then
    match regAt (TransWord.addr w) with
    | some r => .ok (rdInstr r)
    | none   => .error (.unlistedRead (TransWord.addr w))
  else if TransWord.kind w = 1 then
    match regAt (TransWord.addr w) with
    | some r => .ok (wrInstr (TransWord.val w) r)
    | none   => .error (.unlistedWrite (TransWord.addr w) (TransWord.val w))
  else if TransWord.kind w = 2 then .ok (.tick (TransWord.count w).toNat)
  else .ok .reset

/-- The word of an `RD`; its ignored value byte is written as zero (R101). -/
def rdWord (r : Reg) : TransWord := 0#2 ++ (r.addr ++ 0#8)

/-- The word of a `WR` (R101). -/
def wrWord (r : Reg) (val : Byte) : TransWord := 1#2 ++ (r.addr ++ val)

/-- The word of a well-formed transaction (R101); the bits the block ignores are written as zero. -/
def encode : Instr → TransWord
  | .rdLcdc => rdWord .lcdc
  | .wrLcdc val => wrWord .lcdc val
  | .rdStat => rdWord .stat
  | .wrStat val => wrWord .stat val
  | .rdScy => rdWord .scy
  | .wrScy val => wrWord .scy val
  | .rdScx => rdWord .scx
  | .wrScx val => wrWord .scx val
  | .rdLy => rdWord .ly
  | .wrLy val => wrWord .ly val
  | .rdLyc => rdWord .lyc
  | .wrLyc val => wrWord .lyc val
  | .rdDma => rdWord .dma
  | .wrDma val => wrWord .dma val
  | .rdBgp => rdWord .bgp
  | .wrBgp val => wrWord .bgp val
  | .rdObp0 => rdWord .obp0
  | .wrObp0 val => wrWord .obp0 val
  | .rdObp1 => rdWord .obp1
  | .wrObp1 val => wrWord .obp1 val
  | .rdWy => rdWord .wy
  | .wrWy val => wrWord .wy val
  | .rdWx => rdWord .wx
  | .wrWx val => wrWord .wx val
  | .rdHdma1 => rdWord .hdma1
  | .wrHdma1 val => wrWord .hdma1 val
  | .rdHdma2 => rdWord .hdma2
  | .wrHdma2 val => wrWord .hdma2 val
  | .rdHdma3 => rdWord .hdma3
  | .wrHdma3 val => wrWord .hdma3 val
  | .rdHdma4 => rdWord .hdma4
  | .wrHdma4 val => wrWord .hdma4 val
  | .rdHdma5 => rdWord .hdma5
  | .wrHdma5 val => wrWord .hdma5 val
  | .rdBcps => rdWord .bcps
  | .wrBcps val => wrWord .bcps val
  | .rdBcpd => rdWord .bcpd
  | .wrBcpd val => wrWord .bcpd val
  | .rdOcps => rdWord .ocps
  | .wrOcps val => wrWord .ocps val
  | .rdOcpd => rdWord .ocpd
  | .wrOcpd val => wrWord .ocpd val
  | .tick n => 2#2 ++ BitVec.ofNat 24 n
  | .reset => 3#2 ++ 0#24

/-- The instruction the decoder reads from a word given as a number, of which the low `nbits` bits are the table's row and
the rest are zero. A number of more than 26 bits is no transaction word (log 14). -/
def decodeTableWord (nbits w : Nat) : Option Instr :=
  if w % 2 ^ nbits < 2 ^ 26 then
    match decode (BitVec.ofNat 26 (w % 2 ^ nbits)) with
    | .ok i    => some i
    | .error _ => none
  else none

end Sys2Proof
end

