-- ==== Sys2Proof/Machine/State.lean ====
section
/-! DEFINITION. The state of the block and of the platform memory its rules reach (10_state.md), and the state after reset. -/

namespace Sys2Proof.Machine

/-- The four modes of the sequencer (00_scope.md R14, 10_state.md R40). -/
inductive Mode where
  | oamSearch | pixelTransfer | hblank | vblank
deriving DecidableEq, Repr

/-- A layer of the picture: `BG` is background and window, `OBJ` the sprites (R14). -/
inductive Layer where
  | bg | obj
deriving DecidableEq, Repr

/-- The two heights a sprite can have (10_state.md R42). -/
inductive SpriteHeight where
  | h8 | h16
deriving DecidableEq, Repr

/-- An entry of the sprite list, its position already bias-adjusted (R42). -/
structure Sprite where
  /-- -16..239 -/
  y     : Int
  /-- -8..247 -/
  x     : Int
  tile  : Byte
  flags : Byte
deriving DecidableEq, Repr

/-- `FB`: one colour per pixel of the visible raster (R43), held as 144 rows of 160. The type has exactly the 23040 entries
00_scope.md R7 asks for. `FrameBuffer.entry` is the flat numbering of R43 (log 13). -/
abbrev FrameBuffer := Vector (Vector Color 160) 144

/-- The output events of the block (R50). -/
inductive Event where
  /-- `IRQ(VBLANK)` -/
  | irqVblank
  /-- `IRQ(STAT)` -/
  | irqStat
  /-- `FRAME(buf)`, carrying a copy of the frame buffer -/
  | frame (buf : FrameBuffer)
deriving DecidableEq, Repr

/-- What a transaction answers at its port (30_encoding.md R100): a byte for `RD`, a Boolean for `TICK`, nothing else. -/
inductive Answer where
  | nothing
  | byte (b : Byte)
  | consumed (b : Bool)
deriving DecidableEq, Repr

/-- A byte memory: pairs of address and byte, addresses strictly rising, no entry zero. An address not listed reads as zero
(20_memory.md R76: both arrays of the reference platform are initially zero). -/
abbrev Memory := List Host.Cell

/-- The canonical form of a memory of `size` addresses, all entries lying above `low`: see `Memory.wf`. -/
def Memory.wfFrom (size : Nat) : Nat → Memory → Bool
  | _, [] => true
  | low, (a, b) :: m => decide (low ≤ a) && decide (a < size) && (b != 0#8) && Memory.wfFrom size (a + 1) m

/-- The canonical form: addresses strictly rising and below `size`, no byte equal to what an unlisted address reads as. -/
def Memory.wf (size : Nat) (m : Memory) : Bool := Memory.wfFrom size 0 m

/-- The state: the block's registers and storage (10_state.md sections 1 to 3), its output trace (section 6), the platform
memory its rules read and write (section 7), and two fields of the model's own, `result` and `pending`. -/
structure State where
  /-- the parameters (00_scope.md R6), never changed -/
  cfg     : Config
  /-- display control (R21) -/
  lcdc    : Byte
  /-- the four interrupt enables of the status register (R22) -/
  statEn  : BitVec 4
  /-- background scroll-y (R23) -/
  scy     : Byte
  /-- background scroll-x (R24) -/
  scx     : Byte
  /-- raster-compare line (R25) -/
  lyc     : Byte
  /-- window top line (R26) -/
  wy      : Byte
  /-- window left position plus 7 (R27) -/
  wx      : Byte
  /-- DMA source page last written (R28) -/
  dma     : Byte
  /-- HDMA source high (R29) -/
  hdma1   : Byte
  /-- HDMA source low (R29) -/
  hdma2   : Byte
  /-- HDMA destination high (R29) -/
  hdma3   : Byte
  /-- HDMA destination low (R29) -/
  hdma4   : Byte
  /-- HDMA length and trigger (R30) -/
  hdma5   : Byte
  /-- background palette index port, bit 6 never stored (R31) -/
  bcps    : Byte
  /-- sprite palette index port, bit 6 never stored (R32) -/
  ocps    : Byte
  /-- background palette memory (R33) -/
  bgpal   : Vector Byte 64
  /-- sprite palette memory (R34) -/
  obpal   : Vector Byte 64
  /-- sequencer mode (R40) -/
  mode    : Mode
  /-- cycle countdown (R40), an integer (log 10) -/
  cd      : Int
  /-- scanline counter, 0..153 (R40) -/
  ly      : Fin 154
  /-- sprite list (R42) -/
  spr     : List Sprite
  /-- sprite height in force when the list was built (R42) -/
  sprH    : SpriteHeight
  /-- frame buffer (R43) -/
  fb      : FrameBuffer
  /-- output trace, oldest event first (R50) -/
  out     : List Event
  /-- platform memory `Mem`, 65536 bytes (R51, 20_memory.md R70, R76) -/
  mem     : Memory
  /-- `Vram1`, the second video-memory bank, 8192 bytes keyed 0..8191 (R51, 20_memory.md R74, R76) -/
  vram1   : Memory
  /-- the model's own (log 3): what the last transaction answered -/
  result  : Answer
  /-- the model's own (log 2): the transaction words the driver has still to issue, oldest first -/
  pending : List TransWord
deriving DecidableEq, Repr

/-- Why the machine stops with a fault: never. No operation of this block traps, faults or reports an error
(60_exceptions.md R340), so there is no constructor. -/
inductive Fault where
deriving DecidableEq, Repr

/-- Why an instruction is refused. -/
inductive Refusal where
  /-- raised by an arm of `exec` whose instruction has no meaning yet (safe); no arm of this model raises it -/
  | notModelled (mnemonic : String)
deriving DecidableEq, Repr

/-- The state after power-on with the parameters `c`: the values of 10_state.md R60 on the zeroed reference platform (R76).
The trace is empty (log 8), and so are the model's own fields (log 2, log 3). In MONO the cells R20 says do not exist hold the
same values and nothing reads them (log 9). -/
def State.resetWith (c : Config) : State where
  cfg     := c
  lcdc    := c.resetLcdc
  statEn  := c.resetStatEn
  scy     := 0x00#8
  scx     := 0x00#8
  lyc     := 0x00#8
  wy      := 0x00#8
  wx      := 0x00#8
  dma     := 0xFF#8
  hdma1   := 0x00#8
  hdma2   := 0x00#8
  hdma3   := 0x00#8
  hdma4   := 0x00#8
  hdma5   := 0xFF#8
  bcps    := 0x00#8
  ocps    := 0x00#8
  bgpal   := Vector.replicate 64 0xFF#8
  obpal   := Vector.replicate 64 0xFF#8
  mode    := .vblank
  cd      := 456
  ly      := 0
  spr     := []
  sprH    := .h8
  fb      := Vector.replicate 144 (Vector.replicate 160
               (match c.variant with
                | .mono  => c.shade[0]
                | .color => 0x7FFF#15))
  out     := []
  mem     := []
  vram1   := []
  result  := .nothing
  pending := []

/-- The machine right after reset (10_state.md R60, 70_reset_and_hazards.md R370), with the parameters of log 1. -/
def State.reset : State := State.resetWith Config.initial

end Sys2Proof.Machine
end

