-- ==== Sys2Proof/Machine/Ops.lean ====
section
/-! DEFINITION. The named operations over memory, the answer port, the output trace and the frame buffer. Exceptions: the block
takes none and returns from none (60_exceptions.md R340, R345, R346), so the one shared operation here is raising an event. -/

namespace Sys2Proof.Machine

/-- The byte at an address of a memory; an unlisted address reads as zero (20_memory.md R76). -/
def Memory.read : Memory → Nat → Byte
  | [], _ => 0#8
  | (b, v) :: m, a => if a = b then v else Memory.read m a

/-- Put a byte in the list at its place. -/
def Memory.insert (a : Nat) (v : Byte) : Memory → Memory
  | [] => [(a, v)]
  | (b, w) :: m =>
    if a < b then (a, v) :: (b, w) :: m
    else if a = b then (a, v) :: m
    else (b, w) :: Memory.insert a v m

/-- Take an address out of the list. -/
def Memory.erase (a : Nat) : Memory → Memory
  | [] => []
  | (b, w) :: m => if a = b then Memory.erase a m else (b, w) :: Memory.erase a m

/-- Write a byte, keeping the canonical form: writing zero, what an unlisted address reads as, removes the entry. -/
def Memory.write (m : Memory) (a : Nat) (v : Byte) : Memory :=
  if v = 0#8 then Memory.erase a m else Memory.insert a v m

/-- Record what the transaction answers at its port (30_encoding.md R100). -/
def State.answer (r : Answer) (s : State) : State := { s with result := r }

/-- `emit E` (10_state.md R50): append an event to the trace, and nothing else (60_exceptions.md R345). -/
def State.emit (e : Event) (s : State) : State := { s with out := s.out ++ [e] }

/-- `if c then emit E`. -/
def State.emitIf (c : Bool) (e : Event) (s : State) : State := if c then s.emit e else s

/-- `MemWrite(addr, v)` (20_memory.md R73), `addr` taken mod 65536: a store into platform memory. It is not routed to a
register: the engine writes only to `0xFE00..0xFE9F` and `0x8000..0xA7FE`, none of which the block accepts (log 6). -/
def memWrite (a : Nat) (v : Byte) (s : State) : State := { s with mem := s.mem.write (a % 65536) v }

/-- The driver's direct read of platform memory at an address the block does not accept (20_memory.md R76): the platform
answers, no state of the block changes (30_encoding.md R130). -/
def platformRead (a : Addr) (s : State) : State := s.answer (.byte (s.mem.read a.toNat))

/-- The driver's direct store into platform memory at an address the block does not accept (20_memory.md R76). -/
def platformWrite (a : Addr) (v : Byte) (s : State) : State := (memWrite a.toNat v s).answer .nothing

/-- A transaction that runs to its end and answers `r`: every transaction does (60_exceptions.md R340). -/
def done (r : Answer) (s : State) : Host.Outcome State Fault Refusal := .next (s.answer r)

/-- Entry `k` of the frame buffer in the flat numbering of 10_state.md R43: pixel `(px, ly)` is entry `160 * ly + px`. -/
def FrameBuffer.entry (fb : FrameBuffer) (k : Nat) : Option Color :=
  (fb[k / 160]?).map (fun row => row[k % 160]'(Nat.mod_lt k (by decide)))

/-- A row of 160 colours, column `px` being `f px`. -/
def FrameBuffer.mkRow (f : Nat → Color) : Vector Color 160 := ⟨((List.range 160).map f).toArray, by simp⟩

/-- Replace row `l`; there is no row beyond 143 (log 11). -/
def FrameBuffer.setRow (fb : FrameBuffer) (l : Nat) (row : Vector Color 160) : FrameBuffer := fb.setIfInBounds l row

/-- A frame buffer with one colour everywhere. -/
def FrameBuffer.fill (c : Color) : FrameBuffer := Vector.replicate 144 (Vector.replicate 160 c)

/-- `duration(mode)` (45_mode_state_machine.md R265). -/
def Mode.duration : Mode → Int
  | .oamSearch     => 80
  | .pixelTransfer => 172
  | .hblank        => 204
  | .vblank        => 456

/-- The height of a sprite in lines. -/
def SpriteHeight.lines : SpriteHeight → Int
  | .h8  => 8
  | .h16 => 16

/-- The byte index of an index port, bits 5:0 (30_encoding.md R115, R125). -/
def portIndex (port : Byte) : Fin 64 := (port.extractLsb' 0 6).toFin

/-- An index port after a data-port write (41_palette.md R207, R210): with bit 7 set, bits 5:0 advance mod 64 and bit 7 is
kept; otherwise unchanged. Bit 6, never stored, stays as it is. -/
def portAdvance (port : Byte) : Byte :=
  if port.getLsbD 7 then (port &&& 0xC0#8) ||| ((port.extractLsb' 0 6 + 1#6).zeroExtend 8) else port

end Sys2Proof.Machine
end

