-- ==== Sys2Proof/Machine/Flags.lean ====
section
/-! DEFINITION. The two status flags, which are functions of the state (10_state.md R55), and the status byte. -/

namespace Sys2Proof.Machine

/-- `STAT_MODE`, the code of the mode (R55, 45_mode_state_machine.md R265). -/
def statMode (s : State) : BitVec 2 :=
  match s.mode with
  | .hblank        => 0b00#2
  | .vblank        => 0b01#2
  | .oamSearch     => 0b10#2
  | .pixelTransfer => 0b11#2

/-- `STAT_CMP`, the raster-compare-equal flag: 1 if `ly = LYC` (R55). -/
def statCmp (s : State) : BitVec 1 := if s.ly.val = s.lyc.toNat then 1#1 else 0#1

/-- The byte `RD STAT` answers (40_register_bank.md R142): bit 7 reads 1, then the enables, the compare flag and the mode. -/
def statByte (s : State) : Byte :=
  0x80#8 ||| (s.statEn.zeroExtend 8 <<< 3) ||| ((statCmp s).zeroExtend 8 <<< 2) ||| (statMode s).zeroExtend 8

end Sys2Proof.Machine
end

