-- ==== Sys2Proof/Machine/Operands.lean ====
section
/-! DEFINITION. What a register reads as, and the master-bus reads built on it (20_memory.md R72, R74, R76). -/

namespace Sys2Proof.Machine

/-- The byte a register answers to `RD`. Reads have no side effect (20_memory.md R81). -/
def regRead (r : Reg) (s : State) : Byte :=
  match r with
  | .lcdc  => s.lcdc                       -- R140
  | .stat  => statByte s                   -- R142
  | .scy   => s.scy                        -- R144
  | .scx   => s.scx                        -- R146
  | .ly    => BitVec.ofNat 8 s.ly.val      -- R148
  | .lyc   => s.lyc                        -- R150
  | .dma   => 0xFF#8                       -- R240
  | .bgp   => 0xFF#8                       -- R211
  | .obp0  => 0xFF#8                       -- R213
  | .obp1  => 0xFF#8                       -- R215
  | .wy    => s.wy                         -- R152
  | .wx    => s.wx                         -- R154
  | .hdma1 => s.hdma1                      -- R255
  | .hdma2 => s.hdma2                      -- R257
  | .hdma3 => s.hdma3                      -- R259
  | .hdma4 => s.hdma4                      -- R261
  | .hdma5 => s.hdma5                      -- R253
  | .bcps  => s.bcps ||| 0x40#8            -- R204
  | .bcpd  => s.bgpal[portIndex s.bcps]    -- R206
  | .ocps  => s.ocps ||| 0x40#8            -- R208
  | .ocpd  => s.obpal[portIndex s.ocps]    -- R217

/-- `MemRead(addr)` (R72), `addr` taken mod 65536: an accepted address answers as the block's own `RD`, every other address
as platform memory (R76). -/
def memRead (s : State) (a : Nat) : Byte :=
  match acceptedReg s.cfg.variant (BitVec.ofNat 16 a) with
  | some r => regRead r s
  | none   => s.mem.read (a % 65536)

/-- `VramRead(bank, addr)` (R74), `addr` in `0x8000..0x9FFF`: bank 0 is platform memory, bank 1 is `Vram1`. -/
def vramRead (s : State) (bank : Bool) (a : Nat) : Byte :=
  if bank then s.vram1.read (a - 0x8000) else memRead s a

/-- A bus read by the driver of a register's address: the block answers if it accepts the address, else the platform does
(20_memory.md R71, R76). -/
def busRead (r : Reg) (s : State) : Host.Outcome State Fault Refusal :=
  if r.inVariant s.cfg.variant then done (.byte (regRead r s)) s else .next (platformRead r.addr s)

/-- A bus write by the driver to a register's address: the register's own effect if the block accepts the address, else a
store into platform memory (20_memory.md R71, R76). A write answers nothing (30_encoding.md R100). -/
def busWrite (r : Reg) (val : Byte) (effect : State → State) (s : State) : Host.Outcome State Fault Refusal :=
  if r.inVariant s.cfg.variant then done .nothing (effect s) else .next (platformWrite r.addr val s)

/-- The byte copy of the two transfer engines (43_dma.md R241, 44_hdma.md R252): the first `len` bytes, ascending, each read
and then written before the next is read, both addresses taken mod 65536. -/
def copyBytes (src dst : Nat) : Nat → State → State
  | 0, s => s
  | len + 1, s =>
    let t := copyBytes src dst len s
    memWrite (dst + len) (memRead t (src + len)) t

end Sys2Proof.Machine
end

