-- ==== Sys2Proof/Machine/Dma.lean ====
section
/-! DEFINITION. The DMA transfer engine (43_dma.md). -/

namespace Sys2Proof.Machine

/-- `RD DMA` (R240): the sentinel. -/
def execRdDma (s : State) : Host.Outcome State Fault Refusal := busRead .dma s

/-- The effect of `WR DMA` (R241): the page is kept, then 160 bytes go to sprite attribute memory. No time passes (R242). -/
def dmaTransfer (val : Byte) (s : State) : State :=
  copyBytes (val.toNat * 256) 0xFE00 160 { s with dma := val }

/-- `WR DMA, val` (R241) -/
def execWrDma (val : Byte) (s : State) : Host.Outcome State Fault Refusal := busWrite .dma val (dmaTransfer val) s

end Sys2Proof.Machine
end

