-- ==== Sys2Proof/Machine/Hdma.lean ====
section
/-! DEFINITION. The HDMA transfer engine, COLOR only (44_hdma.md). -/

namespace Sys2Proof.Machine

/-- The HDMA source (R252): `HDMA1`, `HDMA2`, the low nibble masked off. -/
def hdmaSrc (s : State) : Nat := ((s.hdma1 ++ s.hdma2) &&& 0xFFF0#16).toNat

/-- The HDMA destination (R252): 13 bits of `HDMA3`, `HDMA4`, based at `0x8000`. -/
def hdmaDst (s : State) : Nat := (0x8000#16 ||| ((s.hdma3 ++ s.hdma4) &&& 0x1FFF#16)).toNat

/-- The HDMA length in bytes (R252): 16 to 2048, bit 7 ignored. -/
def hdmaLen (val : Byte) : Nat := ((val &&& 0x7F#8).toNat + 1) * 16

/-- The effect of `WR HDMA5` (R254): the value is stored, the copy runs with it in place, then the sentinel is set. -/
def hdmaTransfer (val : Byte) (s : State) : State :=
  let t := { s with hdma5 := val }
  { copyBytes (hdmaSrc t) (hdmaDst t) (hdmaLen val) t with hdma5 := 0xFF#8 }

/-- `RD HDMA1` (R255) -/
def execRdHdma1 (s : State) : Host.Outcome State Fault Refusal := busRead .hdma1 s

/-- `WR HDMA1, val` (R256) -/
def execWrHdma1 (val : Byte) (s : State) : Host.Outcome State Fault Refusal :=
  busWrite .hdma1 val (fun s => { s with hdma1 := val }) s

/-- `RD HDMA2` (R257) -/
def execRdHdma2 (s : State) : Host.Outcome State Fault Refusal := busRead .hdma2 s

/-- `WR HDMA2, val` (R258) -/
def execWrHdma2 (val : Byte) (s : State) : Host.Outcome State Fault Refusal :=
  busWrite .hdma2 val (fun s => { s with hdma2 := val }) s

/-- `RD HDMA3` (R259) -/
def execRdHdma3 (s : State) : Host.Outcome State Fault Refusal := busRead .hdma3 s

/-- `WR HDMA3, val` (R260) -/
def execWrHdma3 (val : Byte) (s : State) : Host.Outcome State Fault Refusal :=
  busWrite .hdma3 val (fun s => { s with hdma3 := val }) s

/-- `RD HDMA4` (R261) -/
def execRdHdma4 (s : State) : Host.Outcome State Fault Refusal := busRead .hdma4 s

/-- `WR HDMA4, val` (R262) -/
def execWrHdma4 (val : Byte) (s : State) : Host.Outcome State Fault Refusal :=
  busWrite .hdma4 val (fun s => { s with hdma4 := val }) s

/-- `RD HDMA5` (R253) -/
def execRdHdma5 (s : State) : Host.Outcome State Fault Refusal := busRead .hdma5 s

/-- `WR HDMA5, val` (R254) -/
def execWrHdma5 (val : Byte) (s : State) : Host.Outcome State Fault Refusal :=
  busWrite .hdma5 val (hdmaTransfer val) s

end Sys2Proof.Machine
end

