-- ==== Sys2Proof/Machine/Palette.lean ====
section
/-! DEFINITION. The palette lookup engine (41_palette.md): `resolve`, the palette ports, the read-only region of MONO. -/

namespace Sys2Proof.Machine

/-- The two bytes of a palette memory at colour `i` of palette `sel`, low byte first, bit 15 ignored (R201,
30_encoding.md R120). -/
def paletteColor (pal : Vector Byte 64) (i : PixelIndex) (sel : PaletteSelector) : Color :=
  let o := 8 * sel.toNat + 2 * i.toNat
  (((pal[o]'(by omega)).zeroExtend 16) ||| ((pal[o + 1]'(by omega)).zeroExtend 16 <<< 8)).truncate 15

/-- `resolve(pixelIndex, paletteSelector, layer)` (R200): R201 in COLOR, R202 in MONO. -/
def resolve (s : State) (i : PixelIndex) (sel : PaletteSelector) (layer : Layer) : Color :=
  match s.cfg.variant with
  | .mono  => s.cfg.shade[i.toFin]
  | .color =>
    match layer with
    | .bg  => paletteColor s.bgpal i sel
    | .obj => paletteColor s.obpal i sel

/-- `FILL`, the default fill colour (R203). -/
def fillColor (s : State) : Color := resolve s 0 0 .bg

/-- `RD BCPS` (R204) -/
def execRdBcps (s : State) : Host.Outcome State Fault Refusal := busRead .bcps s

/-- `WR BCPS, val` (R205): bit 6 dropped. -/
def execWrBcps (val : Byte) (s : State) : Host.Outcome State Fault Refusal :=
  busWrite .bcps val (fun s => { s with bcps := val &&& 0xBF#8 }) s

/-- `RD BCPD` (R206): the index does not advance. -/
def execRdBcpd (s : State) : Host.Outcome State Fault Refusal := busRead .bcpd s

/-- `WR BCPD, val` (R207): store the byte at the index, then advance the index if bit 7 of the port is set. -/
def execWrBcpd (val : Byte) (s : State) : Host.Outcome State Fault Refusal :=
  busWrite .bcpd val
    (fun s => { s with bgpal := s.bgpal.set (portIndex s.bcps) val, bcps := portAdvance s.bcps }) s

/-- `RD OCPS` (R208) -/
def execRdOcps (s : State) : Host.Outcome State Fault Refusal := busRead .ocps s

/-- `WR OCPS, val` (R209): bit 6 dropped. -/
def execWrOcps (val : Byte) (s : State) : Host.Outcome State Fault Refusal :=
  busWrite .ocps val (fun s => { s with ocps := val &&& 0xBF#8 }) s

/-- `RD OCPD` (R217): the index does not advance. -/
def execRdOcpd (s : State) : Host.Outcome State Fault Refusal := busRead .ocpd s

/-- `WR OCPD, val` (R210): as `WR BCPD`, for the sprite palette memory. -/
def execWrOcpd (val : Byte) (s : State) : Host.Outcome State Fault Refusal :=
  busWrite .ocpd val
    (fun s => { s with obpal := s.obpal.set (portIndex s.ocps) val, ocps := portAdvance s.ocps }) s

/-- `RD BGP` (R211) -/
def execRdBgp (s : State) : Host.Outcome State Fault Refusal := busRead .bgp s

/-- `WR BGP, val` (R212): dropped. -/
def execWrBgp (val : Byte) (s : State) : Host.Outcome State Fault Refusal := busWrite .bgp val (fun s => s) s

/-- `RD OBP0` (R213) -/
def execRdObp0 (s : State) : Host.Outcome State Fault Refusal := busRead .obp0 s

/-- `WR OBP0, val` (R214): dropped. -/
def execWrObp0 (val : Byte) (s : State) : Host.Outcome State Fault Refusal := busWrite .obp0 val (fun s => s) s

/-- `RD OBP1` (R215) -/
def execRdObp1 (s : State) : Host.Outcome State Fault Refusal := busRead .obp1 s

/-- `WR OBP1, val` (R216): dropped. -/
def execWrObp1 (val : Byte) (s : State) : Host.Outcome State Fault Refusal := busWrite .obp1 val (fun s => s) s

end Sys2Proof.Machine
end

