-- ==== Sys2Proof/Machine/Sprite.lean ====
section
/-! DEFINITION. The sprite attribute decoder (42_sprite_attributes.md): discovery, flag decoding, row bitmaps. -/

namespace Sys2Proof.Machine

/-- `pix(lo, hi, c)` (30_encoding.md R122): the pixel index of column `c` of a tile row, 0 the leftmost. -/
def pix (lo hi : Byte) (c : Nat) : PixelIndex :=
  (((hi >>> (7 - c)) &&& 1#8) <<< 1 ||| ((lo >>> (7 - c)) &&& 1#8)).truncate 2

/-- The height sprites have under the current `LCDC[2]` (R221, 30_encoding.md R110). -/
def spriteHeight (s : State) : SpriteHeight := if s.lcdc.getLsbD 2 then .h16 else .h8

/-- OAM entry `i` as the engine reads it (R221, 30_encoding.md R121): bytes y, x, tile, flags, the biases 16 and 8 taken off. -/
def oamEntry (s : State) (i : Nat) : Sprite where
  y     := (memRead s (0xFE00 + 4 * i)).toNat - 16
  x     := (memRead s (0xFE00 + 4 * i + 1)).toNat - 8
  tile  := memRead s (0xFE00 + 4 * i + 2)
  flags := memRead s (0xFE00 + 4 * i + 3)

/-- Whether a sprite's vertical span `[y, y + h)` contains line `ly` (R220, R221). -/
def Sprite.onLine (sp : Sprite) (h : SpriteHeight) (ly : Nat) : Bool :=
  decide (sp.y ≤ ly) && decide ((ly : Int) < sp.y + h.lines)

/-- The scan of R221 over the entries still to be looked at: it stops at ten matches. -/
def scanOam (s : State) : List Nat → List Sprite → List Sprite
  | [], found => found
  | i :: rest, found =>
    if found.length < 10 then
      if (oamEntry s i).onLine (spriteHeight s) s.ly.val then scanOam s rest (found ++ [oamEntry s i])
      else scanOam s rest found
    else found

/-- `Discover()` (R221): the 40 entries in table order; the list and the height are latched. -/
def discover (s : State) : State := { s with spr := scanOam s (List.range 40) [], sprH := spriteHeight s }

/-- `behindBg` (R224): flag bit 7. -/
def Sprite.behindBg (sp : Sprite) : Bool := sp.flags.getLsbD 7

/-- `vflip` (R224): flag bit 6. -/
def Sprite.vflip (sp : Sprite) : Bool := sp.flags.getLsbD 6

/-- `hflip` (R224): flag bit 5. -/
def Sprite.hflip (sp : Sprite) : Bool := sp.flags.getLsbD 5

/-- `palSel` (R224): flag bits 2:0 in COLOR, bit 4 in MONO. -/
def Sprite.palSel (sp : Sprite) : Variant → PaletteSelector
  | .color => sp.flags.extractLsb' 0 3
  | .mono  => (sp.flags.extractLsb' 4 1).zeroExtend 3

/-- `bank` (R224): flag bit 3 in COLOR, 0 in MONO. -/
def Sprite.bank (sp : Sprite) : Variant → Bool
  | .color => sp.flags.getLsbD 3
  | .mono  => false

/-- The row of a sprite shown on line `ly`, after vertical flip over the whole height (R226). In 0..h-1 for every sprite the
discovery of this line selected; elsewhere a negative row counts as 0 (log 12). -/
def spriteRow (sp : Sprite) (h : SpriteHeight) (ly : Nat) : Nat :=
  if sp.vflip then (h.lines - 1 - (ly - sp.y)).toNat else ((ly : Int) - sp.y).toNat

/-- The tile of that row (R226): for 16-line sprites the low bit of `tile` is dropped and rows 8..15 come from the next tile. -/
def spriteTile (sp : Sprite) (h : SpriteHeight) (row : Nat) : Nat :=
  match h with
  | .h16 => (sp.tile &&& 0xFE#8).toNat + row / 8
  | .h8  => sp.tile.toNat

/-- The address of the plane-0 byte of a sprite's row on line `ly` (R226): always in the table at `0x8000`. -/
def spriteRowAddr (sp : Sprite) (h : SpriteHeight) (ly : Nat) : Nat :=
  0x8000 + 16 * spriteTile sp h (spriteRow sp h ly) + 2 * (spriteRow sp h ly % 8)

/-- `rowBitmap(s, ly)` (R225, R226): the two plane bytes `(lo, hi)`, under the height latched at discovery. -/
def rowBitmap (s : State) (sp : Sprite) : Byte × Byte :=
  let a := spriteRowAddr sp s.sprH s.ly.val
  let bank := sp.bank s.cfg.variant
  (vramRead s bank a, vramRead s bank (a + 1))

/-- The column of a sprite at screen column `px`, after horizontal flip (R227), for `x ≤ px < x + 8`. -/
def Sprite.column (sp : Sprite) (px : Nat) : Nat :=
  if sp.hflip then 7 - ((px : Int) - sp.x).toNat else ((px : Int) - sp.x).toNat

/-- The pixel index of a sprite at screen column `px` (R227). -/
def spritePixelIndex (s : State) (sp : Sprite) (px : Nat) : PixelIndex :=
  let b := rowBitmap s sp
  pix b.1 b.2 (sp.column px)

end Sys2Proof.Machine
end

