-- ==== Sys2Proof/Machine/Compositor.lean ====
section
/-! DEFINITION. The scanline renderer and compositor (46_compositor.md). -/

namespace Sys2Proof.Machine

/-- `WindowVisible(px)` (R303): the line compared unsigned, the column over the integers. -/
def windowVisible (s : State) (px : Nat) : Bool :=
  s.lcdc.getLsbD 5 && decide (s.wy.toNat ≤ s.ly.val) && decide ((s.wx.toNat : Int) - 7 ≤ px)

/-- The base of a tile map (30_encoding.md R110, R123). -/
def mapBase (select : Bool) : Nat := if select then 0x9C00 else 0x9800

/-- `TileRowAddr(idx, r)` (R306): the primary table unsigned, the alternate table signed and offset by 128. -/
def tileRowAddr (s : State) (idx : Byte) (r : Nat) : Nat :=
  if s.lcdc.getLsbD 4 then 0x8000 + 16 * idx.toNat + 2 * r
  else 0x8800 + 16 * (idx.toInt + 128).toNat + 2 * r

/-- The tile index of the map cell that holds map position `(mx, my)` (R301, 30_encoding.md R123, R125). -/
def mapTile (s : State) (base mx my : Nat) : Byte := vramRead s false (base + 32 * (my / 8) + mx / 8)

/-- The pixel index at map position `(mx, my)` of a tile map (R301, R307). -/
def mapPixelIndex (s : State) (base mx my : Nat) : PixelIndex :=
  let row := tileRowAddr s (mapTile s base mx my) (my % 8)
  pix (vramRead s false row) (vramRead s false (row + 1)) (mx % 8)

/-- The window's pixel index at column `px` (R304): its map is not scrolled and its line is `ly - WY`. -/
def windowPixelIndex (s : State) (px : Nat) : PixelIndex :=
  mapPixelIndex s (mapBase (s.lcdc.getLsbD 6)) ((px : Int) - ((s.wx.toNat : Int) - 7)).toNat (s.ly.val - s.wy.toNat)

/-- The background's pixel index at column `px` (R305): scrolled, wrapping in both directions. -/
def backgroundPixelIndex (s : State) (px : Nat) : PixelIndex :=
  mapPixelIndex s (mapBase (s.lcdc.getLsbD 3)) ((px + s.scx.toNat) % 256) ((s.ly.val + s.scy.toNat) % 256)

/-- The pixel index of `BgPixel(px)` (R301): window, else background if enabled, else 0 (R302). -/
def bgPixelIndex (s : State) (px : Nat) : PixelIndex :=
  if windowVisible s px then windowPixelIndex s px
  else if s.lcdc.getLsbD 0 then backgroundPixelIndex s px
  else 0

/-- The colour of `BgPixel(px)`: palette selector 0 of layer `BG` (R308); for the layer that is off this is the fill colour
(R302). -/
def bgPixelColor (s : State) (px : Nat) : Color := resolve s (bgPixelIndex s px) 0 .bg

/-- `x ≤ px < x + 8` (R310). -/
def Sprite.covers (sp : Sprite) (px : Nat) : Bool := decide (sp.x ≤ px) && decide ((px : Int) < sp.x + 8)

/-- The draw test of R310: the sprite covers the column, its own pixel is not transparent, and either the background index is
zero or the sprite is not behind the background. -/
def spriteDrawn (s : State) (px : Nat) (bgIdx : PixelIndex) (sp : Sprite) : Bool :=
  sp.covers px && (spritePixelIndex s sp px != 0) && (bgIdx == 0 || !sp.behindBg)

/-- `SpriteColor` (R311). -/
def spriteColor (s : State) (px : Nat) (sp : Sprite) : Color :=
  resolve s (spritePixelIndex s sp px) (sp.palSel s.cfg.variant) .obj

/-- `SpritePixel(px, bgIdx, bgColor)` (R310, R312): the first sprite of the list that passes the draw test, if sprites are
enabled, else the background. -/
def spritePixel (s : State) (px : Nat) (bgIdx : PixelIndex) (bgColor : Color) : Color :=
  if s.lcdc.getLsbD 1 then
    match s.spr.find? (spriteDrawn s px bgIdx) with
    | some sp => spriteColor s px sp
    | none    => bgColor
  else bgColor

/-- The composed colour of column `px` of the current line (R300). -/
def pixelColor (s : State) (px : Nat) : Color := spritePixel s px (bgPixelIndex s px) (bgPixelColor s px)

/-- `Compose()` (R300): row `ly` of the frame buffer, nothing else. -/
def compose (s : State) : State := { s with fb := s.fb.setRow s.ly.val (FrameBuffer.mkRow (pixelColor s)) }

end Sys2Proof.Machine
end

