-- ==== Sys2Proof/Machine/ModeMachine.lean ====
section
/-! DEFINITION. The mode state machine (45_mode_state_machine.md): `TICK`, the transitions, display enable and disable. -/

namespace Sys2Proof.Machine

/-- The reload of a transition: enter a mode and add its duration to the countdown, which carries an overshoot (R268). -/
def State.enterMode (m : Mode) (s : State) : State := { s with mode := m, cd := s.cd + m.duration }

/-- `RasterCompare()` (R272), with the already incremented `ly`. -/
def rasterCompare (s : State) : State :=
  s.emitIf (s.statEn.getLsbD 3 && decide (s.ly.val = s.lyc.toNat)) .irqStat

/-- `EnterVBlank()` (R273): the vertical-blank interrupt, the mode's status interrupt, then the frame (R279, R283). -/
def enterVBlank (s : State) : State :=
  let s := ((s.enterMode .vblank).emit .irqVblank).emitIf (s.statEn.getLsbD 1) .irqStat
  s.emit (.frame s.fb)

/-- `EnterOamSearch()` (R274). -/
def enterOamSearch (s : State) : State := (s.enterMode .oamSearch).emitIf (s.statEn.getLsbD 2) .irqStat

/-- `StayVBlank()` (R275). -/
def stayVBlank (s : State) : State := s.enterMode .vblank

/-- The line boundary (R271): `ly` counts modulo 154, then the compare, then the mode of the new line. -/
def lineBoundary (s : State) : State :=
  let s := rasterCompare { s with ly := s.ly + 1 }
  if s.ly.val = 144 then enterVBlank s
  else if s.ly.val < 144 then enterOamSearch s
  else stayVBlank s

/-- OamSearch to PixelTransfer (R269). -/
def endOamSearch (s : State) : State := (discover s).enterMode .pixelTransfer

/-- PixelTransfer to HBlank (R270). -/
def endPixelTransfer (s : State) : State :=
  ((compose s).enterMode .hblank).emitIf (s.statEn.getLsbD 0) .irqStat

/-- `Transition()` (R282): every mode has exactly one outgoing rule. -/
def transition (s : State) : State :=
  match s.mode with
  | .oamSearch     => endOamSearch s
  | .pixelTransfer => endPixelTransfer s
  | .hblank        => lineBoundary s
  | .vblank        => lineBoundary s

/-- `Cycle()` (R267). -/
def cycle (s : State) : State :=
  let s := { s with cd := s.cd - 1 }
  if s.cd ≤ 0 then transition s else s

/-- `repeat n times: Cycle()` (R266). -/
def cycles : Nat → State → State
  | 0, s => s
  | n + 1, s => cycles n (cycle s)

/-- The display-enable bit, `LCDC[7]` (30_encoding.md R110). -/
def State.displayOn (s : State) : Bool := s.lcdc.getLsbD 7

/-- `TICK n` (R266): with the display disabled nothing happens and the answer is false; otherwise `n` cycles run. -/
def execTick (n : Nat) (s : State) : Host.Outcome State Fault Refusal :=
  if s.displayOn then done (.consumed true) (cycles n s) else done (.consumed false) s

/-- `DisplayDisable()` (R280): HBlank, line 0, the frame buffer filled and delivered; no interrupt, `SPR` kept. -/
def displayDisable (s : State) : State :=
  let s := { s with mode := .hblank, cd := 204, ly := 0, fb := FrameBuffer.fill (fillColor s) }
  s.emit (.frame s.fb)

/-- `DisplayEnable()` (R281): OamSearch with four cycles less; `ly` unchanged, no interrupt. -/
def displayEnable (s : State) : State := { s with mode := .oamSearch, cd := 76 }

end Sys2Proof.Machine
end

