-- ==== Sys2Proof/Machine/RegisterBank.lean ====
section
/-! DEFINITION. `RD` and `WR` of the register bank proper (40_register_bank.md). -/

namespace Sys2Proof.Machine

/-- `RD LCDC` (R140) -/
def execRdLcdc (s : State) : Host.Outcome State Fault Refusal := busRead .lcdc s

/-- The effect of `WR LCDC` (R141): the value is stored, then a change of bit 7 runs its sequence. -/
def writeLcdc (val : Byte) (s : State) : State :=
  let t := { s with lcdc := val }
  if s.displayOn && !val.getLsbD 7 then displayDisable t
  else if !s.displayOn && val.getLsbD 7 then displayEnable t
  else t

/-- `WR LCDC, val` (R141) -/
def execWrLcdc (val : Byte) (s : State) : Host.Outcome State Fault Refusal := busWrite .lcdc val (writeLcdc val) s

/-- `RD STAT` (R142) -/
def execRdStat (s : State) : Host.Outcome State Fault Refusal := busRead .stat s

/-- `WR STAT, val` (R143): bits 6:3 stored, the others dropped; nothing is raised. -/
def execWrStat (val : Byte) (s : State) : Host.Outcome State Fault Refusal :=
  busWrite .stat val (fun s => { s with statEn := val.extractLsb' 3 4 }) s

/-- `RD SCY` (R144) -/
def execRdScy (s : State) : Host.Outcome State Fault Refusal := busRead .scy s

/-- `WR SCY, val` (R145) -/
def execWrScy (val : Byte) (s : State) : Host.Outcome State Fault Refusal :=
  busWrite .scy val (fun s => { s with scy := val }) s

/-- `RD SCX` (R146) -/
def execRdScx (s : State) : Host.Outcome State Fault Refusal := busRead .scx s

/-- `WR SCX, val` (R147) -/
def execWrScx (val : Byte) (s : State) : Host.Outcome State Fault Refusal :=
  busWrite .scx val (fun s => { s with scx := val }) s

/-- `RD LY` (R148) -/
def execRdLy (s : State) : Host.Outcome State Fault Refusal := busRead .ly s

/-- `WR LY, val` (R149): dropped. -/
def execWrLy (val : Byte) (s : State) : Host.Outcome State Fault Refusal := busWrite .ly val (fun s => s) s

/-- `RD LYC` (R150) -/
def execRdLyc (s : State) : Host.Outcome State Fault Refusal := busRead .lyc s

/-- `WR LYC, val` (R151): raises nothing. -/
def execWrLyc (val : Byte) (s : State) : Host.Outcome State Fault Refusal :=
  busWrite .lyc val (fun s => { s with lyc := val }) s

/-- `RD WY` (R152) -/
def execRdWy (s : State) : Host.Outcome State Fault Refusal := busRead .wy s

/-- `WR WY, val` (R153) -/
def execWrWy (val : Byte) (s : State) : Host.Outcome State Fault Refusal :=
  busWrite .wy val (fun s => { s with wy := val }) s

/-- `RD WX` (R154) -/
def execRdWx (s : State) : Host.Outcome State Fault Refusal := busRead .wx s

/-- `WR WX, val` (R155) -/
def execWrWx (val : Byte) (s : State) : Host.Outcome State Fault Refusal :=
  busWrite .wx val (fun s => { s with wx := val }) s

end Sys2Proof.Machine
end

