-- ==== Sys2Proof/Machine/Reset.lean ====
section
/-! DEFINITION. The reset of the block (70_reset_and_hazards.md). -/

namespace Sys2Proof.Machine

/-- The COLOR-only part of `RESET` (R370). -/
def resetColorCells (s : State) : State :=
  { s with
    hdma1 := 0x00#8, hdma2 := 0x00#8, hdma3 := 0x00#8, hdma4 := 0x00#8, hdma5 := 0xFF#8,
    bcps := 0x00#8, ocps := 0x00#8,
    bgpal := Vector.replicate 64 0xFF#8, obpal := Vector.replicate 64 0xFF#8 }

/-- The effect of `RESET` (R370): every cell of the block; no event, no display sequence, platform memory untouched. The frame
buffer is filled after the palette reset. -/
def resetBlock (s : State) : State :=
  let s := { s with
    lcdc := s.cfg.resetLcdc, statEn := s.cfg.resetStatEn,
    scy := 0x00#8, scx := 0x00#8, lyc := 0x00#8, wy := 0x00#8, wx := 0x00#8,
    dma := 0xFF#8 }
  let s := match s.cfg.variant with
    | .color => resetColorCells s
    | .mono  => s
  { s with
    mode := .vblank, cd := 456, ly := 0, spr := [], sprH := .h8,
    fb := FrameBuffer.fill (resolve s 0 0 .bg) }

/-- `RESET` (R370) -/
def execReset (s : State) : Host.Outcome State Fault Refusal := done .nothing (resetBlock s)

end Sys2Proof.Machine
end

