-- ==== Sys2Proof/Machine/Dispatch.lean ====
section
/-! DEFINITION. One arm per transaction of the opcode table. -/

namespace Sys2Proof.Machine

def exec (i : Instr) (s : State) : Host.Outcome State Fault Refusal :=
  match i with
  | .rdLcdc => Sys2Proof.Machine.execRdLcdc s
  | .wrLcdc val => Sys2Proof.Machine.execWrLcdc val s
  | .rdStat => Sys2Proof.Machine.execRdStat s
  | .wrStat val => Sys2Proof.Machine.execWrStat val s
  | .rdScy => Sys2Proof.Machine.execRdScy s
  | .wrScy val => Sys2Proof.Machine.execWrScy val s
  | .rdScx => Sys2Proof.Machine.execRdScx s
  | .wrScx val => Sys2Proof.Machine.execWrScx val s
  | .rdLy => Sys2Proof.Machine.execRdLy s
  | .wrLy val => Sys2Proof.Machine.execWrLy val s
  | .rdLyc => Sys2Proof.Machine.execRdLyc s
  | .wrLyc val => Sys2Proof.Machine.execWrLyc val s
  | .rdDma => Sys2Proof.Machine.execRdDma s
  | .wrDma val => Sys2Proof.Machine.execWrDma val s
  | .rdBgp => Sys2Proof.Machine.execRdBgp s
  | .wrBgp val => Sys2Proof.Machine.execWrBgp val s
  | .rdObp0 => Sys2Proof.Machine.execRdObp0 s
  | .wrObp0 val => Sys2Proof.Machine.execWrObp0 val s
  | .rdObp1 => Sys2Proof.Machine.execRdObp1 s
  | .wrObp1 val => Sys2Proof.Machine.execWrObp1 val s
  | .rdWy => Sys2Proof.Machine.execRdWy s
  | .wrWy val => Sys2Proof.Machine.execWrWy val s
  | .rdWx => Sys2Proof.Machine.execRdWx s
  | .wrWx val => Sys2Proof.Machine.execWrWx val s
  | .rdHdma1 => Sys2Proof.Machine.execRdHdma1 s
  | .wrHdma1 val => Sys2Proof.Machine.execWrHdma1 val s
  | .rdHdma2 => Sys2Proof.Machine.execRdHdma2 s
  | .wrHdma2 val => Sys2Proof.Machine.execWrHdma2 val s
  | .rdHdma3 => Sys2Proof.Machine.execRdHdma3 s
  | .wrHdma3 val => Sys2Proof.Machine.execWrHdma3 val s
  | .rdHdma4 => Sys2Proof.Machine.execRdHdma4 s
  | .wrHdma4 val => Sys2Proof.Machine.execWrHdma4 val s
  | .rdHdma5 => Sys2Proof.Machine.execRdHdma5 s
  | .wrHdma5 val => Sys2Proof.Machine.execWrHdma5 val s
  | .rdBcps => Sys2Proof.Machine.execRdBcps s
  | .wrBcps val => Sys2Proof.Machine.execWrBcps val s
  | .rdBcpd => Sys2Proof.Machine.execRdBcpd s
  | .wrBcpd val => Sys2Proof.Machine.execWrBcpd val s
  | .rdOcps => Sys2Proof.Machine.execRdOcps s
  | .wrOcps val => Sys2Proof.Machine.execWrOcps val s
  | .rdOcpd => Sys2Proof.Machine.execRdOcpd s
  | .wrOcpd val => Sys2Proof.Machine.execWrOcpd val s
  | .tick n => Sys2Proof.Machine.execTick n s
  | .reset => Sys2Proof.Machine.execReset s

end Sys2Proof.Machine
end

