-- ==== Sys2Proof/Machine/Step.lean ====
section
/-! DEFINITION. One step: the driver's next transaction, run to completion (20_memory.md R80). -/

namespace Sys2Proof.Machine

/-- Run one transaction word (30_encoding.md R101, R102): a row of the opcode table by its meaning; a bus transaction at an
address no row names is the driver's own access to platform memory (R130, 20_memory.md R76, log 5). -/
def runWord (w : TransWord) (s : State) : Host.Outcome State Fault Refusal :=
  match decode w with
  | .ok i                       => exec i s
  | .error (.unlistedRead a)    => .next (platformRead a s)
  | .error (.unlistedWrite a v) => .next (platformWrite a v s)

/-- One step: take the oldest pending transaction of the driver and run it. With none pending the block stands still: it has
no step of its own (00_scope.md R8, 70_reset_and_hazards.md R380; log 2). -/
def step (s : State) : Host.Outcome State Fault Refusal :=
  match s.pending with
  | []        => .next s
  | w :: rest => runWord w { s with pending := rest }

/-- The state in which the very next step runs the transaction word `w`: the driver issues it before what is already pending
(log 2, log 14). -/
def State.withFetchWord (s : State) (nbits w : Nat) : State :=
  { s with pending := BitVec.ofNat 26 (w % 2 ^ nbits) :: s.pending }

end Sys2Proof.Machine
end

