-- ==== Sys2Proof/Safety.lean ====
section
/-! DEFINITION. What holds between transactions in every reachable state, and the terms the claims are written in. -/

namespace Sys2Proof.Machine

/-- The sequencer's invariant: items 1 to 5 of 10_state.md R41, items 4 and 5 in the stronger form that a step keeps: while the
display is disabled the sequencer stands where a disable or a reset with `RESET_LCDC[7] = 0` left it (45_mode_state_machine.md
R280, 70_reset_and_hazards.md R373). -/
structure SequencerInv (s : State) : Prop where
  /-- R41 item 1 -/
  countdown : s.displayOn = true → 1 ≤ s.cd ∧ s.cd ≤ s.mode.duration
  /-- R41 item 2 -/
  drawing   : s.mode = .oamSearch ∨ s.mode = .pixelTransfer → s.ly.val ≤ 143
  /-- R41 item 3 -/
  blanking  : 144 ≤ s.ly.val → s.mode = .vblank
  /-- R41 item 4 -/
  firstLine : s.mode = .vblank → s.ly.val ≤ 143 → s.ly = 0
  /-- R41 item 5 and R373 -/
  disabled  : s.displayOn = false →
    s.ly = 0 ∧ ((s.mode = .hblank ∧ s.cd = 204) ∨ (s.mode = .vblank ∧ s.cd = 456))

/-- The sprite list's invariant (10_state.md R42, 42_sprite_attributes.md R221, R222, R226): at most ten entries, positions in
range, and during PixelTransfer every entry spans the line being drawn. -/
structure SpriteInv (s : State) : Prop where
  atMostTen : s.spr.length ≤ 10
  inRange   : ∀ sp ∈ s.spr, -16 ≤ sp.y ∧ sp.y ≤ 239 ∧ -8 ≤ sp.x ∧ sp.x ≤ 247
  spans     : s.mode = .pixelTransfer → ∀ sp ∈ s.spr, sp.onLine s.sprH s.ly.val = true

/-- What holds between transactions (10_state.md R41, R42, R30, R31, R32; the canonical form of both memories). -/
structure State.Inv (s : State) : Prop where
  sequencer : SequencerInv s
  sprites   : SpriteInv s
  /-- R31: bit 6 is not stored -/
  bcpsBit6  : s.bcps.getLsbD 6 = false
  /-- R32: bit 6 is not stored -/
  ocpsBit6  : s.ocps.getLsbD 6 = false
  /-- R30: the completed sentinel, where the cell exists -/
  sentinel  : s.cfg.variant = .color → s.hdma5 = 0xFF#8
  memForm   : s.mem.wf 65536 = true
  vramForm  : s.vram1.wf 8192 = true

/-- `off`, the offset into the line (45_mode_state_machine.md R276). -/
def State.lineOffset (s : State) : Int :=
  match s.mode with
  | .oamSearch     => 80 - s.cd
  | .pixelTransfer => 252 - s.cd
  | .hblank        => 456 - s.cd
  | .vblank        => 456 - s.cd

/-- The mode at an offset into a line (R276). -/
def modeAt (ly : Nat) (off : Int) : Mode :=
  if 144 ≤ ly then .vblank
  else if off < 80 then .oamSearch
  else if off < 252 then .pixelTransfer
  else .hblank

/-- An interrupt request, of either identifier (60_exceptions.md R342). -/
def Event.isIrq : Event → Bool
  | .irqVblank | .irqStat => true
  | .frame _ => false

/-- How many `IRQ(VBLANK)` events the trace holds. -/
def State.vblankCount (s : State) : Nat := s.out.countP (· == .irqVblank)

/-- How many `FRAME` events the trace holds. -/
def State.frameCount (s : State) : Nat := s.out.countP (fun e => !e.isIrq)

/-- The bulk form of a tick (45_mode_state_machine.md R268): `while cd ≤ 0: Transition()`, with fuel. -/
def settle : Nat → State → State
  | 0, s => s
  | fuel + 1, s => if s.cd ≤ 0 then settle fuel (transition s) else s

end Sys2Proof.Machine
end

