-- ==== Sys2Proof/Certificates/Slice0/Obligations.lean ====
section
/-! DEFINITION. The statements for the provers. Each docstring names the rules of spec/ a statement formalises. In every
statement the fields `result` (log 3) and `pending` (log 2) are the model's own; `result` is the "result" column of
30_encoding.md R100. Many rules carry a decision tag D<n> of 92_eei_decisions.md: the spec's own choice, which the rule states (log 17). -/

open Sys2Proof Sys2Proof.Machine

/-! ## Register bank -/

/-- R140, R144, R146, R150, R152, R154: a read of a plain cell answers the cell and changes nothing. -/
def Obligations.PlainReadsAnswerTheCell : Prop :=
  ∀ s : State,
    exec .rdLcdc s = .next { s with result := .byte s.lcdc } ∧
    exec .rdScy s = .next { s with result := .byte s.scy } ∧
    exec .rdScx s = .next { s with result := .byte s.scx } ∧
    exec .rdLyc s = .next { s with result := .byte s.lyc } ∧
    exec .rdWy s = .next { s with result := .byte s.wy } ∧
    exec .rdWx s = .next { s with result := .byte s.wx }

/-- R142 with the flags of R55: the status byte, bit by bit. -/
def Obligations.StatusReadMirrorsTheSequencer : Prop :=
  ∀ s : State, ∃ b : Byte,
    exec .rdStat s = .next { s with result := .byte b } ∧
    b.getLsbD 7 = true ∧
    b.extractLsb' 3 4 = s.statEn ∧
    (b.getLsbD 2 = true ↔ s.ly.val = s.lyc.toNat) ∧
    b.extractLsb' 0 2 = (match s.mode with
      | .hblank => 0#2 | .vblank => 1#2 | .oamSearch => 2#2 | .pixelTransfer => 3#2)

/-- R148 and R149: the scanline counter reads zero-extended, and a write to it is dropped. -/
def Obligations.ScanlineCounterIsReadOnly : Prop :=
  ∀ (s : State) (val : Byte),
    (∃ b : Byte, b.toNat = s.ly.val ∧ exec .rdLy s = .next { s with result := .byte b }) ∧
    exec (.wrLy val) s = .next { s with result := .nothing }

/-- R143: only bits 6:3 of a write to `STAT` are stored, and nothing else changes. -/
def Obligations.StatusWriteStoresTheEnables : Prop :=
  ∀ (s : State) (val : Byte), ∃ en : BitVec 4,
    exec (.wrStat val) s = .next { s with statEn := en, result := .nothing } ∧
    ∀ k < 4, en.getLsbD k = val.getLsbD (k + 3)

/-- R145, R147, R151, R153, R155: a write of a plain cell stores the byte and changes nothing else; in particular no event is
emitted. -/
def Obligations.PlainWritesStoreTheByte : Prop :=
  ∀ (s : State) (val : Byte),
    exec (.wrScy val) s = .next { s with scy := val, result := .nothing } ∧
    exec (.wrScx val) s = .next { s with scx := val, result := .nothing } ∧
    exec (.wrLyc val) s = .next { s with lyc := val, result := .nothing } ∧
    exec (.wrWy val) s = .next { s with wy := val, result := .nothing } ∧
    exec (.wrWx val) s = .next { s with wx := val, result := .nothing }

/-- R141, R280, R281: a write to `LCDC` stores the value; clearing bit 7 disables the display, forcing HBlank at line 0 and
delivering a frame of the fill colour; setting it starts OamSearch four cycles short; otherwise nothing else changes. -/
def Obligations.DisplayControlWriteRunsItsSequence : Prop :=
  ∀ (s : State) (val : Byte),
    (s.lcdc.getLsbD 7 = val.getLsbD 7 →
      exec (.wrLcdc val) s = .next { s with lcdc := val, result := .nothing }) ∧
    (s.lcdc.getLsbD 7 = true → val.getLsbD 7 = false → ∃ blank : FrameBuffer,
      (∀ k < 23040, blank.entry k = some (resolve s 0 0 .bg)) ∧
      exec (.wrLcdc val) s = .next { s with
        lcdc := val, mode := .hblank, cd := 204, ly := 0, fb := blank,
        out := s.out ++ [.frame blank], result := .nothing }) ∧
    (s.lcdc.getLsbD 7 = false → val.getLsbD 7 = true →
      exec (.wrLcdc val) s = .next { s with lcdc := val, mode := .oamSearch, cd := 80 - 4, result := .nothing })

/-! ## Palette -/

/-- R211 to R216: in MONO the fixed palette's region reads `0xFF` and drops writes. -/
def Obligations.FixedPaletteRegionIsReadOnly : Prop :=
  ∀ (s : State) (val : Byte), s.cfg.variant = .mono →
    exec .rdBgp s = .next { s with result := .byte 0xFF } ∧
    exec (.wrBgp val) s = .next { s with result := .nothing } ∧
    exec .rdObp0 s = .next { s with result := .byte 0xFF } ∧
    exec (.wrObp0 val) s = .next { s with result := .nothing } ∧
    exec .rdObp1 s = .next { s with result := .byte 0xFF } ∧
    exec (.wrObp1 val) s = .next { s with result := .nothing }

/-- R204, R205, R208, R209: the index ports of COLOR. -/
def Obligations.PaletteIndexPortsDropBitSix : Prop :=
  ∀ (s : State) (val : Byte), s.cfg.variant = .color →
    exec .rdBcps s = .next { s with result := .byte (s.bcps ||| 0x40) } ∧
    exec (.wrBcps val) s = .next { s with bcps := val &&& 0xBF, result := .nothing } ∧
    exec .rdOcps s = .next { s with result := .byte (s.ocps ||| 0x40) } ∧
    exec (.wrOcps val) s = .next { s with ocps := val &&& 0xBF, result := .nothing }

/-- R206, R217: a data port of COLOR answers the byte at the index, which does not advance. -/
def Obligations.PaletteDataReadsDoNotAdvance : Prop :=
  ∀ s : State, s.cfg.variant = .color →
    (∃ b : Byte, s.bgpal[s.bcps.toNat % 64]? = some b ∧
      exec .rdBcpd s = .next { s with result := .byte b }) ∧
    (∃ b : Byte, s.obpal[s.ocps.toNat % 64]? = some b ∧
      exec .rdOcpd s = .next { s with result := .byte b })

/-- R207, R210: a data-port write of COLOR stores the byte at the index and advances bits 5:0 mod 64 exactly when bit 7 of the
index port is set, keeping bit 7. -/
def Obligations.PaletteDataWritesAdvanceConditionally : Prop :=
  ∀ (s : State) (val : Byte), s.cfg.variant = .color →
    (∃ (pal : Vector Byte 64) (port : Byte),
      exec (.wrBcpd val) s = .next { s with bgpal := pal, bcps := port, result := .nothing } ∧
      (∀ k < 64, pal[k]? = if k = s.bcps.toNat % 64 then some val else s.bgpal[k]?) ∧
      port.toNat % 64 = (if s.bcps.getLsbD 7 then (s.bcps.toNat % 64 + 1) % 64 else s.bcps.toNat % 64) ∧
      port.toNat / 64 = s.bcps.toNat / 64) ∧
    (∃ (pal : Vector Byte 64) (port : Byte),
      exec (.wrOcpd val) s = .next { s with obpal := pal, ocps := port, result := .nothing } ∧
      (∀ k < 64, pal[k]? = if k = s.ocps.toNat % 64 then some val else s.obpal[k]?) ∧
      port.toNat % 64 = (if s.ocps.getLsbD 7 then (s.ocps.toNat % 64 + 1) % 64 else s.ocps.toNat % 64) ∧
      port.toNat / 64 = s.ocps.toNat / 64)

/-- R218 (derived in the spec): after an index write with bit 7 clear and a data write, the data port reads the byte back; no
other byte of that palette memory, none of the other, and no colour but the one the index selects has changed. -/
def Obligations.PaletteRoundTripDoesNotAlias : Prop :=
  ∀ (s : State) (k val : Byte), s.cfg.variant = .color → k.toNat < 64 →
    (∃ t u : State,
      exec (.wrBcps k) s = .next t ∧ exec (.wrBcpd val) t = .next u ∧
      exec .rdBcpd u = .next { u with result := .byte val } ∧
      u = { s with bgpal := u.bgpal, bcps := k, result := .nothing } ∧
      (∀ j < 64, j ≠ k.toNat → u.bgpal[j]? = s.bgpal[j]?) ∧
      (∀ (i : PixelIndex) (p : PaletteSelector), ¬ (p.toNat = k.toNat / 8 ∧ i.toNat = k.toNat / 2 % 4) →
        resolve u i p .bg = resolve s i p .bg) ∧
      (∀ (i : PixelIndex) (p : PaletteSelector), resolve u i p .obj = resolve s i p .obj)) ∧
    (∃ t u : State,
      exec (.wrOcps k) s = .next t ∧ exec (.wrOcpd val) t = .next u ∧
      exec .rdOcpd u = .next { u with result := .byte val } ∧
      u = { s with obpal := u.obpal, ocps := k, result := .nothing } ∧
      (∀ j < 64, j ≠ k.toNat → u.obpal[j]? = s.obpal[j]?) ∧
      (∀ (i : PixelIndex) (p : PaletteSelector), ¬ (p.toNat = k.toNat / 8 ∧ i.toNat = k.toNat / 2 % 4) →
        resolve u i p .obj = resolve s i p .obj) ∧
      (∀ (i : PixelIndex) (p : PaletteSelector), resolve u i p .bg = resolve s i p .bg))

/-- R201, R202: the lookup. In COLOR the colour is the low 15 bits of two bytes of the layer's palette memory, low byte first; in
MONO it is the shade of the pixel index, whatever the selector and the layer. -/
def Obligations.ResolveLooksUpTheColour : Prop :=
  ∀ (s : State) (i : PixelIndex) (p : PaletteSelector),
    (s.cfg.variant = .color →
      (∃ lo hi : Byte, s.bgpal[8 * p.toNat + 2 * i.toNat]? = some lo ∧
        s.bgpal[8 * p.toNat + 2 * i.toNat + 1]? = some hi ∧
        (resolve s i p .bg).toNat = (lo.toNat + 256 * hi.toNat) % 32768) ∧
      (∃ lo hi : Byte, s.obpal[8 * p.toNat + 2 * i.toNat]? = some lo ∧
        s.obpal[8 * p.toNat + 2 * i.toNat + 1]? = some hi ∧
        (resolve s i p .obj).toNat = (lo.toNat + 256 * hi.toNat) % 32768)) ∧
    (s.cfg.variant = .mono →
      ∀ layer : Layer, s.cfg.shade[i.toNat]? = some (resolve s i p layer))

/-! ## Transfers -/

/-- R240: the DMA register reads its sentinel. -/
def Obligations.DmaReadAnswersTheSentinel : Prop :=
  ∀ s : State, exec .rdDma s = .next { s with result := .byte 0xFF }

/-- R241, R242: `WR DMA` copies the 160 bytes of the page to `0xFE00..0xFE9F`, keeps the page, and changes nothing else: no byte
outside the sprite attribute memory, no countdown, mode or line. The source bytes are those the bus answered before the write. -/
def Obligations.DmaCopiesOnePageToOam : Prop :=
  ∀ (s : State) (val : Byte), ∃ m : Memory,
    exec (.wrDma val) s = .next { s with dma := val, mem := m, result := .nothing } ∧
    (∀ i < 160, m.read (0xFE00 + i) = memRead s (val.toNat * 256 + i)) ∧
    (∀ a, a < 0xFE00 ∨ 0xFE9F < a → m.read a = s.mem.read a)

/-- R253, R255 to R262: the HDMA registers of COLOR read back as stored, and writing the first four only stores the byte. -/
def Obligations.HdmaCellsStoreTheByte : Prop :=
  ∀ (s : State) (val : Byte), s.cfg.variant = .color →
    exec .rdHdma1 s = .next { s with result := .byte s.hdma1 } ∧
    exec (.wrHdma1 val) s = .next { s with hdma1 := val, result := .nothing } ∧
    exec .rdHdma2 s = .next { s with result := .byte s.hdma2 } ∧
    exec (.wrHdma2 val) s = .next { s with hdma2 := val, result := .nothing } ∧
    exec .rdHdma3 s = .next { s with result := .byte s.hdma3 } ∧
    exec (.wrHdma3 val) s = .next { s with hdma3 := val, result := .nothing } ∧
    exec .rdHdma4 s = .next { s with result := .byte s.hdma4 } ∧
    exec (.wrHdma4 val) s = .next { s with hdma4 := val, result := .nothing } ∧
    exec .rdHdma5 s = .next { s with result := .byte s.hdma5 }

/-- R252, R254: `WR HDMA5` of COLOR copies `((val & 0x7F) + 1) * 16` bytes, ascending, byte by byte. Byte `i` comes from the
source address mod 65536: what an earlier byte of this transfer put there, or else what the bus answered with `HDMA5` holding
`val`. No byte outside the destination range and nothing of the block but `HDMA5`, set to the sentinel, changes. -/
def Obligations.HdmaCopiesAscendingBytes : Prop :=
  ∀ (s : State) (val : Byte) (src dst len : Nat), s.cfg.variant = .color →
    src = (s.hdma1.toNat * 256 + s.hdma2.toNat) / 16 * 16 →
    dst = 0x8000 + (s.hdma3.toNat * 256 + s.hdma4.toNat) % 8192 →
    len = (val.toNat % 128 + 1) * 16 →
    ∃ m : Memory,
      exec (.wrHdma5 val) s = .next { s with hdma5 := 0xFF, mem := m, result := .nothing } ∧
      (∀ i < len, m.read (dst + i) =
        if dst ≤ (src + i) % 65536 ∧ (src + i) % 65536 < dst + i then m.read ((src + i) % 65536)
        else memRead { s with hdma5 := val } ((src + i) % 65536)) ∧
      (∀ a, a < dst ∨ dst + len ≤ a → m.read a = s.mem.read a)

/-! ## Addresses, the platform, decoding -/

/-- R102: the addresses the block accepts, per variant (the spec takes them from general knowledge, as its R102 says). -/
def Obligations.AcceptedAddressesAreTheMap : Prop :=
  ∀ a : Addr,
    (accepts .mono a = true ↔ 0xFF40 ≤ a.toNat ∧ a.toNat ≤ 0xFF4B) ∧
    (accepts .color a = true ↔
      (0xFF40 ≤ a.toNat ∧ a.toNat ≤ 0xFF46) ∨ a.toNat = 0xFF4A ∨ a.toNat = 0xFF4B ∨
      (0xFF51 ≤ a.toNat ∧ a.toNat ≤ 0xFF55) ∨ (0xFF68 ≤ a.toNat ∧ a.toNat ≤ 0xFF6B))

/-- R130, R71, on the reference platform of R76: a bus transaction at a register address the variant does not accept changes
nothing of the block; a read answers the platform's byte, a write stores one byte of platform memory. That the model runs such
an access as a step is its choice (log 5), so no rule is cited as stated. -/
def Obligations.UnacceptedRegistersReachThePlatform : Prop :=
  ∀ (s : State) (r : Reg) (val : Byte), accepts s.cfg.variant r.addr = false →
    exec (rdInstr r) s = .next { s with result := .byte (s.mem.read r.addr.toNat) } ∧
    ∃ m : Memory, exec (wrInstr val r) s = .next { s with mem := m, result := .nothing } ∧
      ∀ a, m.read a = if a = r.addr.toNat then val else s.mem.read a

/-- R72, R76: what the engine reads from the bus, at an address taken mod 65536: the block's own `RD` where it accepts the
address, platform memory elsewhere. -/
def Obligations.BusReadsRouteToTheBlock : Prop :=
  ∀ (s : State) (a : Nat), memRead s a = memRead s (a % 65536) ∧
    (accepts s.cfg.variant (BitVec.ofNat 16 a) = false → memRead s a = s.mem.read (a % 65536)) ∧
    (∀ r : Reg, r.addr = BitVec.ofNat 16 a → accepts s.cfg.variant r.addr = true →
      exec (rdInstr r) s = .next { s with result := .byte (memRead s a) })

/-- R101, R102: for every well-formed transaction, decoding its word gives it back. -/
def Obligations.DecodeInvertsEncode : Prop :=
  ∀ i : Instr, i.wellFormed = true → decode (encode i) = .ok i

/-- R101: a word decodes to a register's `RD` or `WR` exactly when it matches the row `T & 0x3FFFF00` of that register, to a
`TICK` of its low 24 bits when `T & 0x3000000 = 0x2000000`, and to `RESET` when `T & 0x3000000 = 0x3000000`. -/
def Obligations.DecodeFollowsTheOpcodeRows : Prop :=
  ∀ w : TransWord,
    (∀ r : Reg, decode w = .ok (rdInstr r) ↔
      w &&& 0x3FFFF00#26 = BitVec.ofNat 26 (r.addr.toNat * 256)) ∧
    (∀ (r : Reg) (val : Byte), decode w = .ok (wrInstr val r) ↔
      w &&& 0x3FFFF00#26 = BitVec.ofNat 26 (0x1000000 + r.addr.toNat * 256) ∧ w.toNat % 256 = val.toNat) ∧
    (∀ n : Nat, decode w = .ok (.tick n) ↔ w &&& 0x3000000#26 = 0x2000000#26 ∧ w.toNat % 2 ^ 24 = n) ∧
    (decode w = .ok .reset ↔ w &&& 0x3000000#26 = 0x3000000#26)

/-- Words of the spec's listings (95_test_vectors.md E4, E5, V4, V10, V20, P1), each decoding to the transaction it stands for. -/
def Obligations.ListedWordsDecode : Prop :=
  decode 0x1FF5110#26 = .ok (.wrHdma1 0x10) ∧ decode 0x0FF5500#26 = .ok .rdHdma5 ∧
  decode 0x1FF4011#26 = .ok (.wrLcdc 0x11) ∧ decode 0x0FF4100#26 = .ok .rdStat ∧
  decode 0x1FF46C1#26 = .ok (.wrDma 0xC1) ∧ decode 0x1FF69E0#26 = .ok (.wrBcpd 0xE0) ∧
  decode 0x20003E8#26 = .ok (.tick 1000) ∧ decode 0x3000000#26 = .ok .reset

/-- R80: a step takes the oldest pending transaction, and runs it whole by `exec`. The queue is the model's own (log 2). -/
def Obligations.StepRunsTheDecodedTransaction : Prop :=
  ∀ (s : State) (w : TransWord) (rest : List TransWord) (i : Instr),
    s.pending = w :: rest → decode w = .ok i → step s = exec i { s with pending := rest }

/-- R130, R76, R8: a pending bus transaction at an address outside the map is the driver's own access to platform memory, and
with nothing pending the block stands still. That a step does these is the model's choice (log 2, log 5). -/
def Obligations.StepLeavesTheRestToThePlatform : Prop :=
  ∀ s : State,
    (s.pending = [] → step s = .next s) ∧
    (∀ (w : TransWord) (rest : List TransWord) (a : Addr), s.pending = w :: rest →
      (decode w = .error (.unlistedRead a) →
        step s = .next { s with pending := rest, result := .byte (s.mem.read a.toNat) }) ∧
      (∀ v : Byte, decode w = .error (.unlistedWrite a v) → ∃ m : Memory,
        step s = .next { s with pending := rest, mem := m, result := .nothing } ∧
        ∀ b, m.read b = if b = a.toNat then v else s.mem.read b))

/-! ## The sequencer -/

/-- R266: with the display disabled a `TICK` does nothing and answers false; with it enabled it is `n` cycles and answers true. -/
def Obligations.TickRunsItsCycles : Prop :=
  ∀ (s : State) (n : Nat),
    (s.lcdc.getLsbD 7 = false → exec (.tick n) s = .next { s with result := .consumed false }) ∧
    (s.lcdc.getLsbD 7 = true → exec (.tick n) s = .next { cycle^[n] s with result := .consumed true })

/-- R267: a cycle counts down by one and, when the countdown is spent, runs the transition. -/
def Obligations.CycleCountsDown : Prop :=
  ∀ s : State,
    (1 < s.cd → cycle s = { s with cd := s.cd - 1 }) ∧
    (s.cd ≤ 1 → cycle s = transition { s with cd := s.cd - 1 })

/-- R269, R220, R221, R222: the end of OamSearch. The list latched is the first ten, in table order, of the 40 entries whose
vertical span contains the line; the height is that of `LCDC[2]`; nothing is emitted and nothing else changes. -/
def Obligations.OamSearchEndsInDiscovery : Prop :=
  ∀ (s : State) (h : Int) (table : List Sprite), s.mode = .oamSearch →
    h = (if s.lcdc.getLsbD 2 then 16 else 8) →
    table = (List.range 40).map (fun i => Sprite.mk
      ((memRead s (0xFE00 + 4 * i)).toNat - 16) ((memRead s (0xFE00 + 4 * i + 1)).toNat - 8)
      (memRead s (0xFE00 + 4 * i + 2)) (memRead s (0xFE00 + 4 * i + 3))) →
    transition s = { s with
      spr := (table.filter (fun sp => decide (sp.y ≤ (s.ly.val : Int) ∧ (s.ly.val : Int) < sp.y + h))).take 10,
      sprH := (if s.lcdc.getLsbD 2 then .h16 else .h8),
      mode := .pixelTransfer, cd := s.cd + 172 }

/-- R270, R300: the end of PixelTransfer on a visible line. Row `ly` of the frame buffer becomes the composed pixels, no other
entry changes; HBlank is entered, and `IRQ(STAT)` is emitted exactly if its enable is set. -/
def Obligations.PixelTransferEndsInComposition : Prop :=
  ∀ s : State, s.mode = .pixelTransfer → s.ly.val ≤ 143 → ∃ fb : FrameBuffer,
    transition s = { s with
      fb := fb, mode := .hblank, cd := s.cd + 204,
      out := s.out ++ (if s.statEn.getLsbD 0 then [.irqStat] else []) } ∧
    (∀ px < 160, fb.entry (160 * s.ly.val + px) =
      some (spritePixel s px (bgPixelIndex s px) (bgPixelColor s px))) ∧
    (∀ k, k < 160 * s.ly.val ∨ 160 * s.ly.val + 160 ≤ k → fb.entry k = s.fb.entry k)

/-- R271 to R275, R283: the line boundary, from HBlank or VBlank. The line counts modulo 154; the events are, in order, the
compare's, the vertical blank's, the mode's and the frame, which carries the frame buffer. -/
def Obligations.LineBoundaryStartsTheNextLine : Prop :=
  ∀ (s : State) (l : Fin 154) (compare : List Event),
    s.mode = .hblank ∨ s.mode = .vblank →
    l.val = (s.ly.val + 1) % 154 →
    compare = (if s.statEn.getLsbD 3 = true ∧ l.val = s.lyc.toNat then [.irqStat] else []) →
    (l.val = 144 → transition s = { s with
      ly := l, mode := .vblank, cd := s.cd + 456,
      out := s.out ++ compare ++ [.irqVblank] ++ (if s.statEn.getLsbD 1 then [.irqStat] else []) ++ [.frame s.fb] }) ∧
    (l.val < 144 → transition s = { s with
      ly := l, mode := .oamSearch, cd := s.cd + 80,
      out := s.out ++ compare ++ (if s.statEn.getLsbD 2 then [.irqStat] else []) }) ∧
    (144 < l.val → transition s = { s with
      ly := l, mode := .vblank, cd := s.cd + 456, out := s.out ++ compare })

/-- R268 (derived in the spec): ticks add up. -/
def Obligations.TicksAddUp : Prop :=
  ∀ (s t : State) (a b : Nat), s.lcdc.getLsbD 7 = true →
    exec (.tick a) s = .next t → exec (.tick b) t = exec (.tick (a + b)) s

/-- R268 (derived in the spec): the bulk form of a tick. From a spent-free countdown, `n` cycles are one subtraction and then
transitions until the countdown is positive again, each adding its overshoot. -/
def Obligations.TickHasABulkForm : Prop :=
  ∀ (s : State) (n : Nat), s.lcdc.getLsbD 7 = true → 1 ≤ s.cd →
    exec (.tick n) s = .next { settle n { s with cd := s.cd - n } with result := .consumed true } ∧
    1 ≤ (settle n { s with cd := s.cd - n }).cd

/-- R276 (derived in the spec): the full-line law. From every state of the invariant with the display enabled, 456 cycles, split
in any way, keep the offset into the line and advance the line by one, the mode being the one the offset gives. -/
def Obligations.FullLineKeepsTheOffset : Prop :=
  ∀ (s t u : State) (a b : Nat), s.Inv → s.lcdc.getLsbD 7 = true → a + b = 456 →
    exec (.tick a) s = .next t → exec (.tick b) t = .next u →
    0 ≤ s.lineOffset ∧ s.lineOffset < 456 ∧
    u.lineOffset = s.lineOffset ∧ u.ly.val = (s.ly.val + 1) % 154 ∧
    u.mode = modeAt u.ly.val s.lineOffset

/-- R277: over a frame of 70224 cycles exactly one `IRQ(VBLANK)` is emitted, a cycle emits one precisely when it takes the line
from 143 to 144, and no other transaction emits one. -/
def Obligations.VBlankInterruptOncePerFrame : Prop :=
  (∀ s : State, s.Inv → s.lcdc.getLsbD 7 = true →
    (∀ t, exec (.tick 70224) s = .next t → t.vblankCount = s.vblankCount + 1) ∧
    (∀ t, exec (.tick 1) s = .next t →
      t.vblankCount = s.vblankCount + (if s.ly.val = 143 ∧ t.ly.val = 144 then 1 else 0))) ∧
  (∀ (s t : State) (i : Instr), (∀ n, i ≠ .tick n) → exec i s = .next t → t.vblankCount = s.vblankCount)

/-- R278 (derived in the spec): the timeline from `RESET` with the display enabled. -/
def Obligations.TimelineFromReset : Prop :=
  ∀ (s s0 u : State) (t : Nat), exec .reset s = .next s0 → s0.lcdc.getLsbD 7 = true →
    exec (.tick t) s0 = .next u →
    (t < 456 → u.mode = .vblank ∧ u.ly.val = 0) ∧
    (∀ k, 1 ≤ k → k ≤ 143 → 456 * k ≤ t → t < 456 * k + 80 → u.mode = .oamSearch ∧ u.ly.val = k) ∧
    (∀ k, 1 ≤ k → k ≤ 143 → 456 * k + 80 ≤ t → t < 456 * k + 252 → u.mode = .pixelTransfer ∧ u.ly.val = k) ∧
    (∀ k, 1 ≤ k → k ≤ 143 → 456 * k + 252 ≤ t → t < 456 * (k + 1) → u.mode = .hblank ∧ u.ly.val = k) ∧
    (∀ j, j ≤ 9 → 65664 + 456 * j ≤ t → t < 65664 + 456 * (j + 1) → u.mode = .vblank ∧ u.ly.val = 144 + j) ∧
    (70224 ≤ t → t < 70304 → u.mode = .oamSearch ∧ u.ly.val = 0)

/-- R347, R40, R50: the engine writes none of the driver's cells: a `TICK` changes at most the sequencer, the sprite list, the
frame buffer and the trace, which only grows, beside its answer. -/
def Obligations.TickLeavesTheDriversCells : Prop :=
  ∀ (s : State) (n : Nat), ∃ (m : Mode) (c : Int) (l : Fin 154) (sp : List Sprite) (h : SpriteHeight)
    (fb : FrameBuffer) (es : List Event) (b : Bool),
    exec (.tick n) s = .next { s with
      mode := m, cd := c, ly := l, spr := sp, sprH := h, fb := fb, out := s.out ++ es, result := .consumed b }

/-! ## Sprites and composition -/

/-- R226: the row bitmap of a sprite that spans the line: its two bytes lie at the stated address of the table at `0x8000`, in
bank 1 only in COLOR with flag bit 3 set. -/
def Obligations.SpriteRowComesFromTheUnsignedTable : Prop :=
  ∀ (s : State) (sp : Sprite) (h row tile : Nat),
    sp.onLine s.sprH s.ly.val = true →
    h = (match s.sprH with | .h8 => 8 | .h16 => 16) →
    (row : Int) = (if sp.flags.getLsbD 6 then (h : Int) - 1 - ((s.ly.val : Int) - sp.y) else (s.ly.val : Int) - sp.y) →
    tile = (if h = 16 then sp.tile.toNat / 2 * 2 + row / 8 else sp.tile.toNat) →
    row < h ∧ 0x8000 + 16 * tile + 2 * (row % 8) + 1 ≤ 0x8FFF ∧
    rowBitmap s sp =
      (vramRead s (decide (s.cfg.variant = .color) && sp.flags.getLsbD 3) (0x8000 + 16 * tile + 2 * (row % 8)),
       vramRead s (decide (s.cfg.variant = .color) && sp.flags.getLsbD 3) (0x8000 + 16 * tile + 2 * (row % 8) + 1))

/-- R122, R227: the pixel index of a sprite's column, bit 7 of a plane byte being the leftmost column unless flipped. -/
def Obligations.SpriteColumnHonoursTheFlip : Prop :=
  (∀ (lo hi : Byte) (c : Nat), c < 8 →
    (pix lo hi c).toNat = 2 * (hi.getLsbD (7 - c)).toNat + (lo.getLsbD (7 - c)).toNat) ∧
  ∀ (s : State) (sp : Sprite) (px c : Nat), (px : Int) = sp.x + c → c < 8 →
    spritePixelIndex s sp px =
      pix (rowBitmap s sp).1 (rowBitmap s sp).2 (if sp.flags.getLsbD 5 then 7 - c else c)

/-- R302, R303, R304, R305, R308: the background pixel: the window where it is visible, else the scrolled background if enabled,
else index 0; always palette 0 of layer `BG` and video-memory bank 0 (bank 1 plays no part). -/
def Obligations.BackgroundPixelPicksItsLayer : Prop :=
  ∀ (s : State) (px : Nat),
    bgPixelColor s px = resolve s (bgPixelIndex s px) 0 .bg ∧
    (∀ bank1 : Memory, bgPixelIndex { s with vram1 := bank1 } px = bgPixelIndex s px) ∧
    (∀ mx my : Nat, s.lcdc.getLsbD 5 = true → s.ly.val = s.wy.toNat + my → px + 7 = s.wx.toNat + mx →
      bgPixelIndex s px = mapPixelIndex s (if s.lcdc.getLsbD 6 then 0x9C00 else 0x9800) mx my) ∧
    (s.lcdc.getLsbD 5 = false ∨ s.ly.val < s.wy.toNat ∨ px + 7 < s.wx.toNat →
      (s.lcdc.getLsbD 0 = true → bgPixelIndex s px =
        mapPixelIndex s (if s.lcdc.getLsbD 3 then 0x9C00 else 0x9800)
          ((px + s.scx.toNat) % 256) ((s.ly.val + s.scy.toNat) % 256)) ∧
      (s.lcdc.getLsbD 0 = false → bgPixelIndex s px = 0))

/-- R306, R307: a map position's pixel: the tile index from its map cell, the row address by the unsigned or the signed table,
the two plane bytes of the sub-row from bank 0. -/
def Obligations.MapPixelFollowsThePatternTable : Prop :=
  ∀ (s : State) (base mx my addr : Nat) (idx : Byte),
    idx = vramRead s false (base + 32 * (my / 8) + mx / 8) →
    (addr : Int) = (if s.lcdc.getLsbD 4 then 0x8000 + 16 * (idx.toNat : Int) else 0x9000 + 16 * idx.toInt)
      + 2 * ((my % 8 : Nat) : Int) →
    mapPixelIndex s base mx my = pix (vramRead s false addr) (vramRead s false (addr + 1)) (mx % 8)

/-- R310, R311, R312: the sprite over the background. With sprites disabled the background shows; otherwise the first entry of
the list that covers the column, has a non-zero pixel, and faces a zero background pixel or is not behind the background; if no
entry does, the background. -/
def Obligations.FirstDrawnSpriteWins : Prop :=
  ∀ (s : State) (px : Nat) (bgIdx : PixelIndex) (bgColor : Color),
    (s.lcdc.getLsbD 1 = false → spritePixel s px bgIdx bgColor = bgColor) ∧
    (∀ (before after : List Sprite) (sp : Sprite), s.lcdc.getLsbD 1 = true →
      s.spr = before ++ sp :: after →
      (∀ q ∈ before, ¬ (q.x ≤ px ∧ (px : Int) < q.x + 8 ∧ spritePixelIndex s q px ≠ 0 ∧
        (bgIdx = 0 ∨ q.flags.getLsbD 7 = false))) →
      sp.x ≤ px → (px : Int) < sp.x + 8 → spritePixelIndex s sp px ≠ 0 →
      bgIdx = 0 ∨ sp.flags.getLsbD 7 = false →
      spritePixel s px bgIdx bgColor = resolve s (spritePixelIndex s sp px)
        (match s.cfg.variant with
         | .color => sp.flags.extractLsb' 0 3
         | .mono => BitVec.ofNat 3 (sp.flags.getLsbD 4).toNat) .obj) ∧
    ((∀ q ∈ s.spr, ¬ (q.x ≤ px ∧ (px : Int) < q.x + 8 ∧ spritePixelIndex s q px ≠ 0 ∧
        (bgIdx = 0 ∨ q.flags.getLsbD 7 = false))) →
      spritePixel s px bgIdx bgColor = bgColor)

/-- R89, R88: composition does not see a change of sprite attribute memory, of any platform byte outside video memory, or of
`LCDC[2]`, made after the discovery of its line. -/
def Obligations.CompositionSeesOnlyTheLatchedSprites : Prop :=
  ∀ (s : State) (m : Memory) (lcdc : Byte), s.Inv → s.mode = .pixelTransfer →
    (∀ a, 0x8000 ≤ a → a ≤ 0x9FFF → m.read a = s.mem.read a) →
    (∀ k, k ≠ 2 → lcdc.getLsbD k = s.lcdc.getLsbD k) →
    (transition { s with mem := m, lcdc := lcdc }).fb = (transition s).fb

/-! ## The whole machine -/

/-- R340: every transaction is defined in every state, and every step answers a next state. That a step with nothing pending
answers at all is the model's choice (log 2), and so is that an access at an unaccepted address runs as a step (log 5). -/
def Obligations.NothingEverStops : Prop :=
  (∀ (i : Instr) (s : State), ∃ t, exec i s = .next t) ∧ (∀ s : State, ∃ t, step s = .next t)

/-- R81: no read changes anything but the answer at its port. R81 speaks of accepted addresses; that a read of a register the
variant lacks answers a next state with the platform's byte is the model's choice (log 5). -/
def Obligations.ReadsHaveNoSideEffect : Prop :=
  ∀ (r : Reg) (s : State), ∃ b : Byte, exec (rdInstr r) s = .next { s with result := .byte b }

/-- R6: no step changes a parameter. -/
def Obligations.ParametersNeverChange : Prop :=
  ∀ s t : State, step s = .next t → t.cfg = s.cfg

/-- R50: the trace only grows, whatever step is taken. -/
def Obligations.TraceOnlyGrows : Prop :=
  ∀ s t : State, step s = .next t → ∃ es : List Event, t.out = s.out ++ es

/-- R342: nothing but a `TICK` raises an interrupt request: no register write, no reset, no display sequence, no transfer. -/
def Obligations.OnlyTicksRaiseInterrupts : Prop :=
  ∀ (i : Instr) (s t : State), (∀ n, i ≠ .tick n) → exec i s = .next t →
    t.out.filter Event.isIrq = s.out.filter Event.isIrq

/-- R40: the only transactions that change the sequencer state are `TICK`, `RESET` and a write to `LCDC` that changes bit 7. -/
def Obligations.SequencerHasThreeWriters : Prop :=
  ∀ (i : Instr) (s t : State), exec i s = .next t →
    (t.mode ≠ s.mode ∨ t.cd ≠ s.cd ∨ t.ly ≠ s.ly) →
    (∃ n, i = .tick n) ∨ i = .reset ∨ (∃ v, i = .wrLcdc v ∧ v.getLsbD 7 ≠ s.lcdc.getLsbD 7)

/-- R82, R347 (the access rights table): who may change the storage no plain register cell holds: the sprite list only `TICK` and
`RESET`; the frame buffer those and a write to `LCDC`; the palette memories only their data ports and `RESET`; the second
video-memory bank nobody; platform memory, in the block's own transactions, only the two transfers. That nothing writes the second
bank is the model's inference (log 16), and that a write to a register the variant lacks stores into platform memory is its choice
(log 5). -/
def Obligations.StorageHasNoOtherWriters : Prop :=
  ∀ (i : Instr) (s t : State), exec i s = .next t →
    (t.spr ≠ s.spr ∨ t.sprH ≠ s.sprH → (∃ n, i = .tick n) ∨ i = .reset) ∧
    (t.fb ≠ s.fb → (∃ n, i = .tick n) ∨ i = .reset ∨ ∃ v, i = .wrLcdc v) ∧
    (t.bgpal ≠ s.bgpal → i = .reset ∨ ∃ v, i = .wrBcpd v) ∧
    (t.obpal ≠ s.obpal → i = .reset ∨ ∃ v, i = .wrOcpd v) ∧
    t.vram1 = s.vram1 ∧
    (t.mem ≠ s.mem → (∃ v, i = .wrDma v) ∨ (∃ v, i = .wrHdma5 v) ∨
      ∃ r v, i = wrInstr v r ∧ accepts s.cfg.variant r.addr = false)

/-- R370: `RESET`, in both variants. It emits nothing and leaves platform memory, the parameters and, in MONO, the cells that do
not exist there. Power-on is the same: resetting the power-on state, under any parameters, gives it back. -/
def Obligations.ResetRestoresTheDocumentedValues : Prop :=
  (∀ s : State, ∃ fb : FrameBuffer,
    (s.cfg.variant = .color → (∀ k < 23040, fb.entry k = some 0x7FFF) ∧
      exec .reset s = .next { s with
        lcdc := s.cfg.resetLcdc, statEn := s.cfg.resetStatEn, scy := 0, scx := 0, lyc := 0, wy := 0, wx := 0, dma := 0xFF,
        hdma1 := 0, hdma2 := 0, hdma3 := 0, hdma4 := 0, hdma5 := 0xFF, bcps := 0, ocps := 0,
        bgpal := Vector.replicate 64 0xFF, obpal := Vector.replicate 64 0xFF,
        mode := .vblank, cd := 456, ly := 0, spr := [], sprH := .h8, fb := fb, result := .nothing }) ∧
    (s.cfg.variant = .mono → (∀ k < 23040, fb.entry k = s.cfg.shade[0]?) ∧
      exec .reset s = .next { s with
        lcdc := s.cfg.resetLcdc, statEn := s.cfg.resetStatEn, scy := 0, scx := 0, lyc := 0, wy := 0, wx := 0, dma := 0xFF,
        mode := .vblank, cd := 456, ly := 0, spr := [], sprH := .h8, fb := fb, result := .nothing })) ∧
  (∀ c : Config, exec .reset (State.resetWith c) = .next (State.resetWith c))

/-- R41 (derived in the spec), with R30, R31, R32, R42 and the memories' canonical form: the invariant holds after reset, under
any parameters; in particular in `State.reset`, whose parameters are the model's choice (log 1). -/
def Obligations.ResetMeetsTheInvariant : Prop :=
  (∀ c : Config, (State.resetWith c).Inv) ∧ State.reset.Inv

/-- R41 (derived in the spec), with R30, R31, R32, R42 and the memories' canonical form: every step keeps the invariant, from
every state that meets it. -/
def Obligations.EveryStepKeepsTheInvariant : Prop :=
  ∀ s t : State, s.Inv → step s = .next t → t.Inv
end

