-- ==== Sys2Proof/Laws/Decode.lean ====
section
/-! SUPPORT. The fields of a transaction word put together from its parts (30_encoding.md R101). -/

namespace Sys2Proof.TransWord

theorem toNat_append (k : BitVec 2) (r : BitVec 24) : (k ++ r : BitVec 26).toNat = k.toNat * 2 ^ 24 + r.toNat := by
  rw [BitVec.toNat_append, ← Nat.shiftLeft_add_eq_or_of_lt r.isLt, Nat.shiftLeft_eq]

theorem toNat_bus (a : Addr) (v : Byte) : (a ++ v : BitVec 24).toNat = a.toNat * 256 + v.toNat := by
  rw [BitVec.toNat_append, ← Nat.shiftLeft_add_eq_or_of_lt v.isLt, Nat.shiftLeft_eq]

theorem kind_toNat (w : TransWord) : (kind w).toNat = w.toNat / 2 ^ 24 := by
  have := w.isLt
  simp only [kind, BitVec.extractLsb'_toNat, Nat.shiftRight_eq_div_pow]
  omega

theorem addr_toNat (w : TransWord) : (addr w).toNat = w.toNat / 256 % 65536 := by
  simp only [addr, BitVec.extractLsb'_toNat, Nat.shiftRight_eq_div_pow]

theorem val_toNat (w : TransWord) : (val w).toNat = w.toNat % 256 := by
  simp only [val, BitVec.extractLsb'_toNat, Nat.shiftRight_eq_div_pow]
  omega

theorem count_toNat (w : TransWord) : (count w).toNat = w.toNat % 2 ^ 24 := by
  simp only [count, BitVec.extractLsb'_toNat, Nat.shiftRight_eq_div_pow]
  omega

theorem kind_append (k : BitVec 2) (r : BitVec 24) : kind (k ++ r) = k := by
  apply BitVec.eq_of_toNat_eq
  rw [kind_toNat, toNat_append]
  have := r.isLt
  omega

theorem count_append (k : BitVec 2) (r : BitVec 24) : count (k ++ r) = r := by
  apply BitVec.eq_of_toNat_eq
  rw [count_toNat, toNat_append]
  have := r.isLt
  omega

theorem addr_append (k : BitVec 2) (a : Addr) (v : Byte) : addr (k ++ (a ++ v)) = a := by
  apply BitVec.eq_of_toNat_eq
  rw [addr_toNat, toNat_append, toNat_bus]
  have := a.isLt
  have := v.isLt
  omega

theorem val_append (k : BitVec 2) (a : Addr) (v : Byte) : val (k ++ (a ++ v)) = v := by
  apply BitVec.eq_of_toNat_eq
  rw [val_toNat, toNat_append, toNat_bus]
  have := v.isLt
  omega

end Sys2Proof.TransWord
end

