-- ==== Sys2Proof/Laws/Memory.lean ====
section
/-! SUPPORT. The laws of the byte memory: read after write, and the canonical form, which every operation keeps. -/

namespace Sys2Proof.Machine.Memory

@[simp] theorem read_nil (a : Nat) : Memory.read [] a = 0#8 := rfl

theorem read_cons (b : Nat) (v : Byte) (m : Memory) (a : Nat) :
    Memory.read ((b, v) :: m) a = if a = b then v else m.read a := rfl

theorem read_insert (a : Nat) (v : Byte) (m : Memory) (b : Nat) :
    (Memory.insert a v m).read b = if b = a then v else m.read b := by
  induction m with
  | nil => simp [Memory.insert, read_cons]
  | cons c m ih =>
    obtain ⟨k, w⟩ := c
    simp only [Memory.insert]
    split
    · simp [read_cons]
    · split
      · rename_i h; subst h
        simp only [read_cons]
        split <;> simp_all
      · simp only [read_cons, ih]
        split <;> split <;> simp_all

theorem read_erase (a : Nat) (m : Memory) (b : Nat) :
    (Memory.erase a m).read b = if b = a then 0#8 else m.read b := by
  induction m with
  | nil => simp [Memory.erase]
  | cons c m ih =>
    obtain ⟨k, w⟩ := c
    simp only [Memory.erase]
    split
    · rename_i h; subst h
      simp only [ih, read_cons]
      split <;> simp_all
    · simp only [read_cons, ih]
      split <;> split <;> simp_all

/-- A read after a write: the byte written at its address, every other byte as before. -/
theorem read_write (m : Memory) (a : Nat) (v : Byte) (b : Nat) :
    (m.write a v).read b = if b = a then v else m.read b := by
  unfold Memory.write
  split
  · rename_i h; subst h; exact read_erase a m b
  · exact read_insert a v m b

@[simp] theorem read_write_same (m : Memory) (a : Nat) (v : Byte) : (m.write a v).read a = v := by
  simp [read_write]

theorem read_write_other (m : Memory) {a b : Nat} (v : Byte) (h : b ≠ a) : (m.write a v).read b = m.read b := by
  simp [read_write, h]

/-! ### The canonical form -/

theorem wfFrom_cons (size low a : Nat) (b : Byte) (m : Memory) :
    Memory.wfFrom size low ((a, b) :: m) = true ↔
      low ≤ a ∧ a < size ∧ b ≠ 0#8 ∧ Memory.wfFrom size (a + 1) m = true := by
  simp [Memory.wfFrom, and_assoc]

theorem wfFrom_mono {size low low' : Nat} {m : Memory} (h : low' ≤ low) (hm : Memory.wfFrom size low m = true) :
    Memory.wfFrom size low' m = true := by
  cases m with
  | nil => rfl
  | cons c m =>
    obtain ⟨a, b⟩ := c
    rw [wfFrom_cons] at hm ⊢
    exact ⟨by omega, hm.2⟩

theorem wfFrom_insert {size low a : Nat} {v : Byte} {m : Memory} (ha : low ≤ a) (hs : a < size) (hv : v ≠ 0#8)
    (hm : Memory.wfFrom size low m = true) : Memory.wfFrom size low (Memory.insert a v m) = true := by
  induction m generalizing low with
  | nil => simp [Memory.insert, Memory.wfFrom, ha, hs, hv]
  | cons c m ih =>
    obtain ⟨k, w⟩ := c
    rw [wfFrom_cons] at hm
    simp only [Memory.insert]
    split
    · rw [wfFrom_cons, wfFrom_cons]
      exact ⟨ha, hs, hv, by omega, hm.2.1, hm.2.2.1, hm.2.2.2⟩
    · split
      · rename_i h; subst h
        rw [wfFrom_cons]
        exact ⟨ha, hs, hv, hm.2.2.2⟩
      · rw [wfFrom_cons]
        exact ⟨hm.1, hm.2.1, hm.2.2.1, ih (by omega) hm.2.2.2⟩

theorem wfFrom_erase {size low a : Nat} {m : Memory} (hm : Memory.wfFrom size low m = true) :
    Memory.wfFrom size low (Memory.erase a m) = true := by
  induction m generalizing low with
  | nil => rfl
  | cons c m ih =>
    obtain ⟨k, w⟩ := c
    rw [wfFrom_cons] at hm
    simp only [Memory.erase]
    split
    · exact ih (wfFrom_mono (by omega) hm.2.2.2)
    · rw [wfFrom_cons]
      exact ⟨hm.1, hm.2.1, hm.2.2.1, ih hm.2.2.2⟩

/-- A write inside the address space keeps the canonical form. -/
theorem wf_write {size a : Nat} (v : Byte) {m : Memory} (ha : a < size) (hm : m.wf size = true) :
    (m.write a v).wf size = true := by
  unfold Memory.write
  split
  · exact wfFrom_erase hm
  · rename_i hv; exact wfFrom_insert (Nat.zero_le a) ha hv hm

/-- Both memories of the reset state are in canonical form. -/
theorem wf_reset : State.reset.mem.wf 65536 = true ∧ State.reset.vram1.wf 8192 = true := by decide

end Sys2Proof.Machine.Memory
end

