-- ==== Sys2Proof/Laws/State.lean ====
section
/-! SUPPORT. One lemma per field per named update of the state, so that no later proof unfolds a record update. -/

namespace Sys2Proof.Machine

/-! ### answer -/

@[simp] theorem answer_cfg (r : Answer) (s : State) : (s.answer r).cfg = s.cfg := rfl
@[simp] theorem answer_lcdc (r : Answer) (s : State) : (s.answer r).lcdc = s.lcdc := rfl
@[simp] theorem answer_statEn (r : Answer) (s : State) : (s.answer r).statEn = s.statEn := rfl
@[simp] theorem answer_scy (r : Answer) (s : State) : (s.answer r).scy = s.scy := rfl
@[simp] theorem answer_scx (r : Answer) (s : State) : (s.answer r).scx = s.scx := rfl
@[simp] theorem answer_lyc (r : Answer) (s : State) : (s.answer r).lyc = s.lyc := rfl
@[simp] theorem answer_wy (r : Answer) (s : State) : (s.answer r).wy = s.wy := rfl
@[simp] theorem answer_wx (r : Answer) (s : State) : (s.answer r).wx = s.wx := rfl
@[simp] theorem answer_dma (r : Answer) (s : State) : (s.answer r).dma = s.dma := rfl
@[simp] theorem answer_hdma1 (r : Answer) (s : State) : (s.answer r).hdma1 = s.hdma1 := rfl
@[simp] theorem answer_hdma2 (r : Answer) (s : State) : (s.answer r).hdma2 = s.hdma2 := rfl
@[simp] theorem answer_hdma3 (r : Answer) (s : State) : (s.answer r).hdma3 = s.hdma3 := rfl
@[simp] theorem answer_hdma4 (r : Answer) (s : State) : (s.answer r).hdma4 = s.hdma4 := rfl
@[simp] theorem answer_hdma5 (r : Answer) (s : State) : (s.answer r).hdma5 = s.hdma5 := rfl
@[simp] theorem answer_bcps (r : Answer) (s : State) : (s.answer r).bcps = s.bcps := rfl
@[simp] theorem answer_ocps (r : Answer) (s : State) : (s.answer r).ocps = s.ocps := rfl
@[simp] theorem answer_bgpal (r : Answer) (s : State) : (s.answer r).bgpal = s.bgpal := rfl
@[simp] theorem answer_obpal (r : Answer) (s : State) : (s.answer r).obpal = s.obpal := rfl
@[simp] theorem answer_mode (r : Answer) (s : State) : (s.answer r).mode = s.mode := rfl
@[simp] theorem answer_cd (r : Answer) (s : State) : (s.answer r).cd = s.cd := rfl
@[simp] theorem answer_ly (r : Answer) (s : State) : (s.answer r).ly = s.ly := rfl
@[simp] theorem answer_spr (r : Answer) (s : State) : (s.answer r).spr = s.spr := rfl
@[simp] theorem answer_sprH (r : Answer) (s : State) : (s.answer r).sprH = s.sprH := rfl
@[simp] theorem answer_fb (r : Answer) (s : State) : (s.answer r).fb = s.fb := rfl
@[simp] theorem answer_out (r : Answer) (s : State) : (s.answer r).out = s.out := rfl
@[simp] theorem answer_mem (r : Answer) (s : State) : (s.answer r).mem = s.mem := rfl
@[simp] theorem answer_vram1 (r : Answer) (s : State) : (s.answer r).vram1 = s.vram1 := rfl
@[simp] theorem answer_result (r : Answer) (s : State) : (s.answer r).result = r := rfl
@[simp] theorem answer_pending (r : Answer) (s : State) : (s.answer r).pending = s.pending := rfl

/-! ### emit -/

@[simp] theorem emit_cfg (e : Event) (s : State) : (s.emit e).cfg = s.cfg := rfl
@[simp] theorem emit_lcdc (e : Event) (s : State) : (s.emit e).lcdc = s.lcdc := rfl
@[simp] theorem emit_statEn (e : Event) (s : State) : (s.emit e).statEn = s.statEn := rfl
@[simp] theorem emit_scy (e : Event) (s : State) : (s.emit e).scy = s.scy := rfl
@[simp] theorem emit_scx (e : Event) (s : State) : (s.emit e).scx = s.scx := rfl
@[simp] theorem emit_lyc (e : Event) (s : State) : (s.emit e).lyc = s.lyc := rfl
@[simp] theorem emit_wy (e : Event) (s : State) : (s.emit e).wy = s.wy := rfl
@[simp] theorem emit_wx (e : Event) (s : State) : (s.emit e).wx = s.wx := rfl
@[simp] theorem emit_dma (e : Event) (s : State) : (s.emit e).dma = s.dma := rfl
@[simp] theorem emit_hdma1 (e : Event) (s : State) : (s.emit e).hdma1 = s.hdma1 := rfl
@[simp] theorem emit_hdma2 (e : Event) (s : State) : (s.emit e).hdma2 = s.hdma2 := rfl
@[simp] theorem emit_hdma3 (e : Event) (s : State) : (s.emit e).hdma3 = s.hdma3 := rfl
@[simp] theorem emit_hdma4 (e : Event) (s : State) : (s.emit e).hdma4 = s.hdma4 := rfl
@[simp] theorem emit_hdma5 (e : Event) (s : State) : (s.emit e).hdma5 = s.hdma5 := rfl
@[simp] theorem emit_bcps (e : Event) (s : State) : (s.emit e).bcps = s.bcps := rfl
@[simp] theorem emit_ocps (e : Event) (s : State) : (s.emit e).ocps = s.ocps := rfl
@[simp] theorem emit_bgpal (e : Event) (s : State) : (s.emit e).bgpal = s.bgpal := rfl
@[simp] theorem emit_obpal (e : Event) (s : State) : (s.emit e).obpal = s.obpal := rfl
@[simp] theorem emit_mode (e : Event) (s : State) : (s.emit e).mode = s.mode := rfl
@[simp] theorem emit_cd (e : Event) (s : State) : (s.emit e).cd = s.cd := rfl
@[simp] theorem emit_ly (e : Event) (s : State) : (s.emit e).ly = s.ly := rfl
@[simp] theorem emit_spr (e : Event) (s : State) : (s.emit e).spr = s.spr := rfl
@[simp] theorem emit_sprH (e : Event) (s : State) : (s.emit e).sprH = s.sprH := rfl
@[simp] theorem emit_fb (e : Event) (s : State) : (s.emit e).fb = s.fb := rfl
@[simp] theorem emit_out (e : Event) (s : State) : (s.emit e).out = s.out ++ [e] := rfl
@[simp] theorem emit_mem (e : Event) (s : State) : (s.emit e).mem = s.mem := rfl
@[simp] theorem emit_vram1 (e : Event) (s : State) : (s.emit e).vram1 = s.vram1 := rfl
@[simp] theorem emit_result (e : Event) (s : State) : (s.emit e).result = s.result := rfl
@[simp] theorem emit_pending (e : Event) (s : State) : (s.emit e).pending = s.pending := rfl

/-! ### emitIf -/

@[simp] theorem emitIf_cfg (c : Bool) (e : Event) (s : State) : (s.emitIf c e).cfg = s.cfg := by cases c <;> simp [State.emitIf]
@[simp] theorem emitIf_lcdc (c : Bool) (e : Event) (s : State) : (s.emitIf c e).lcdc = s.lcdc := by cases c <;> simp [State.emitIf]
@[simp] theorem emitIf_statEn (c : Bool) (e : Event) (s : State) : (s.emitIf c e).statEn = s.statEn := by cases c <;> simp [State.emitIf]
@[simp] theorem emitIf_scy (c : Bool) (e : Event) (s : State) : (s.emitIf c e).scy = s.scy := by cases c <;> simp [State.emitIf]
@[simp] theorem emitIf_scx (c : Bool) (e : Event) (s : State) : (s.emitIf c e).scx = s.scx := by cases c <;> simp [State.emitIf]
@[simp] theorem emitIf_lyc (c : Bool) (e : Event) (s : State) : (s.emitIf c e).lyc = s.lyc := by cases c <;> simp [State.emitIf]
@[simp] theorem emitIf_wy (c : Bool) (e : Event) (s : State) : (s.emitIf c e).wy = s.wy := by cases c <;> simp [State.emitIf]
@[simp] theorem emitIf_wx (c : Bool) (e : Event) (s : State) : (s.emitIf c e).wx = s.wx := by cases c <;> simp [State.emitIf]
@[simp] theorem emitIf_dma (c : Bool) (e : Event) (s : State) : (s.emitIf c e).dma = s.dma := by cases c <;> simp [State.emitIf]
@[simp] theorem emitIf_hdma1 (c : Bool) (e : Event) (s : State) : (s.emitIf c e).hdma1 = s.hdma1 := by cases c <;> simp [State.emitIf]
@[simp] theorem emitIf_hdma2 (c : Bool) (e : Event) (s : State) : (s.emitIf c e).hdma2 = s.hdma2 := by cases c <;> simp [State.emitIf]
@[simp] theorem emitIf_hdma3 (c : Bool) (e : Event) (s : State) : (s.emitIf c e).hdma3 = s.hdma3 := by cases c <;> simp [State.emitIf]
@[simp] theorem emitIf_hdma4 (c : Bool) (e : Event) (s : State) : (s.emitIf c e).hdma4 = s.hdma4 := by cases c <;> simp [State.emitIf]
@[simp] theorem emitIf_hdma5 (c : Bool) (e : Event) (s : State) : (s.emitIf c e).hdma5 = s.hdma5 := by cases c <;> simp [State.emitIf]
@[simp] theorem emitIf_bcps (c : Bool) (e : Event) (s : State) : (s.emitIf c e).bcps = s.bcps := by cases c <;> simp [State.emitIf]
@[simp] theorem emitIf_ocps (c : Bool) (e : Event) (s : State) : (s.emitIf c e).ocps = s.ocps := by cases c <;> simp [State.emitIf]
@[simp] theorem emitIf_bgpal (c : Bool) (e : Event) (s : State) : (s.emitIf c e).bgpal = s.bgpal := by cases c <;> simp [State.emitIf]
@[simp] theorem emitIf_obpal (c : Bool) (e : Event) (s : State) : (s.emitIf c e).obpal = s.obpal := by cases c <;> simp [State.emitIf]
@[simp] theorem emitIf_mode (c : Bool) (e : Event) (s : State) : (s.emitIf c e).mode = s.mode := by cases c <;> simp [State.emitIf]
@[simp] theorem emitIf_cd (c : Bool) (e : Event) (s : State) : (s.emitIf c e).cd = s.cd := by cases c <;> simp [State.emitIf]
@[simp] theorem emitIf_ly (c : Bool) (e : Event) (s : State) : (s.emitIf c e).ly = s.ly := by cases c <;> simp [State.emitIf]
@[simp] theorem emitIf_spr (c : Bool) (e : Event) (s : State) : (s.emitIf c e).spr = s.spr := by cases c <;> simp [State.emitIf]
@[simp] theorem emitIf_sprH (c : Bool) (e : Event) (s : State) : (s.emitIf c e).sprH = s.sprH := by cases c <;> simp [State.emitIf]
@[simp] theorem emitIf_fb (c : Bool) (e : Event) (s : State) : (s.emitIf c e).fb = s.fb := by cases c <;> simp [State.emitIf]
@[simp] theorem emitIf_out (c : Bool) (e : Event) (s : State) : (s.emitIf c e).out = s.out ++ (if c then [e] else []) := by cases c <;> simp [State.emitIf]
@[simp] theorem emitIf_mem (c : Bool) (e : Event) (s : State) : (s.emitIf c e).mem = s.mem := by cases c <;> simp [State.emitIf]
@[simp] theorem emitIf_vram1 (c : Bool) (e : Event) (s : State) : (s.emitIf c e).vram1 = s.vram1 := by cases c <;> simp [State.emitIf]
@[simp] theorem emitIf_result (c : Bool) (e : Event) (s : State) : (s.emitIf c e).result = s.result := by cases c <;> simp [State.emitIf]
@[simp] theorem emitIf_pending (c : Bool) (e : Event) (s : State) : (s.emitIf c e).pending = s.pending := by cases c <;> simp [State.emitIf]

/-! ### enterMode -/

@[simp] theorem enterMode_cfg (m : Mode) (s : State) : (s.enterMode m).cfg = s.cfg := rfl
@[simp] theorem enterMode_lcdc (m : Mode) (s : State) : (s.enterMode m).lcdc = s.lcdc := rfl
@[simp] theorem enterMode_statEn (m : Mode) (s : State) : (s.enterMode m).statEn = s.statEn := rfl
@[simp] theorem enterMode_scy (m : Mode) (s : State) : (s.enterMode m).scy = s.scy := rfl
@[simp] theorem enterMode_scx (m : Mode) (s : State) : (s.enterMode m).scx = s.scx := rfl
@[simp] theorem enterMode_lyc (m : Mode) (s : State) : (s.enterMode m).lyc = s.lyc := rfl
@[simp] theorem enterMode_wy (m : Mode) (s : State) : (s.enterMode m).wy = s.wy := rfl
@[simp] theorem enterMode_wx (m : Mode) (s : State) : (s.enterMode m).wx = s.wx := rfl
@[simp] theorem enterMode_dma (m : Mode) (s : State) : (s.enterMode m).dma = s.dma := rfl
@[simp] theorem enterMode_hdma1 (m : Mode) (s : State) : (s.enterMode m).hdma1 = s.hdma1 := rfl
@[simp] theorem enterMode_hdma2 (m : Mode) (s : State) : (s.enterMode m).hdma2 = s.hdma2 := rfl
@[simp] theorem enterMode_hdma3 (m : Mode) (s : State) : (s.enterMode m).hdma3 = s.hdma3 := rfl
@[simp] theorem enterMode_hdma4 (m : Mode) (s : State) : (s.enterMode m).hdma4 = s.hdma4 := rfl
@[simp] theorem enterMode_hdma5 (m : Mode) (s : State) : (s.enterMode m).hdma5 = s.hdma5 := rfl
@[simp] theorem enterMode_bcps (m : Mode) (s : State) : (s.enterMode m).bcps = s.bcps := rfl
@[simp] theorem enterMode_ocps (m : Mode) (s : State) : (s.enterMode m).ocps = s.ocps := rfl
@[simp] theorem enterMode_bgpal (m : Mode) (s : State) : (s.enterMode m).bgpal = s.bgpal := rfl
@[simp] theorem enterMode_obpal (m : Mode) (s : State) : (s.enterMode m).obpal = s.obpal := rfl
@[simp] theorem enterMode_mode (m : Mode) (s : State) : (s.enterMode m).mode = m := rfl
@[simp] theorem enterMode_cd (m : Mode) (s : State) : (s.enterMode m).cd = s.cd + m.duration := rfl
@[simp] theorem enterMode_ly (m : Mode) (s : State) : (s.enterMode m).ly = s.ly := rfl
@[simp] theorem enterMode_spr (m : Mode) (s : State) : (s.enterMode m).spr = s.spr := rfl
@[simp] theorem enterMode_sprH (m : Mode) (s : State) : (s.enterMode m).sprH = s.sprH := rfl
@[simp] theorem enterMode_fb (m : Mode) (s : State) : (s.enterMode m).fb = s.fb := rfl
@[simp] theorem enterMode_out (m : Mode) (s : State) : (s.enterMode m).out = s.out := rfl
@[simp] theorem enterMode_mem (m : Mode) (s : State) : (s.enterMode m).mem = s.mem := rfl
@[simp] theorem enterMode_vram1 (m : Mode) (s : State) : (s.enterMode m).vram1 = s.vram1 := rfl
@[simp] theorem enterMode_result (m : Mode) (s : State) : (s.enterMode m).result = s.result := rfl
@[simp] theorem enterMode_pending (m : Mode) (s : State) : (s.enterMode m).pending = s.pending := rfl

/-! ### memWrite -/

@[simp] theorem memWrite_cfg (a : Nat) (v : Byte) (s : State) : (memWrite a v s).cfg = s.cfg := rfl
@[simp] theorem memWrite_lcdc (a : Nat) (v : Byte) (s : State) : (memWrite a v s).lcdc = s.lcdc := rfl
@[simp] theorem memWrite_statEn (a : Nat) (v : Byte) (s : State) : (memWrite a v s).statEn = s.statEn := rfl
@[simp] theorem memWrite_scy (a : Nat) (v : Byte) (s : State) : (memWrite a v s).scy = s.scy := rfl
@[simp] theorem memWrite_scx (a : Nat) (v : Byte) (s : State) : (memWrite a v s).scx = s.scx := rfl
@[simp] theorem memWrite_lyc (a : Nat) (v : Byte) (s : State) : (memWrite a v s).lyc = s.lyc := rfl
@[simp] theorem memWrite_wy (a : Nat) (v : Byte) (s : State) : (memWrite a v s).wy = s.wy := rfl
@[simp] theorem memWrite_wx (a : Nat) (v : Byte) (s : State) : (memWrite a v s).wx = s.wx := rfl
@[simp] theorem memWrite_dma (a : Nat) (v : Byte) (s : State) : (memWrite a v s).dma = s.dma := rfl
@[simp] theorem memWrite_hdma1 (a : Nat) (v : Byte) (s : State) : (memWrite a v s).hdma1 = s.hdma1 := rfl
@[simp] theorem memWrite_hdma2 (a : Nat) (v : Byte) (s : State) : (memWrite a v s).hdma2 = s.hdma2 := rfl
@[simp] theorem memWrite_hdma3 (a : Nat) (v : Byte) (s : State) : (memWrite a v s).hdma3 = s.hdma3 := rfl
@[simp] theorem memWrite_hdma4 (a : Nat) (v : Byte) (s : State) : (memWrite a v s).hdma4 = s.hdma4 := rfl
@[simp] theorem memWrite_hdma5 (a : Nat) (v : Byte) (s : State) : (memWrite a v s).hdma5 = s.hdma5 := rfl
@[simp] theorem memWrite_bcps (a : Nat) (v : Byte) (s : State) : (memWrite a v s).bcps = s.bcps := rfl
@[simp] theorem memWrite_ocps (a : Nat) (v : Byte) (s : State) : (memWrite a v s).ocps = s.ocps := rfl
@[simp] theorem memWrite_bgpal (a : Nat) (v : Byte) (s : State) : (memWrite a v s).bgpal = s.bgpal := rfl
@[simp] theorem memWrite_obpal (a : Nat) (v : Byte) (s : State) : (memWrite a v s).obpal = s.obpal := rfl
@[simp] theorem memWrite_mode (a : Nat) (v : Byte) (s : State) : (memWrite a v s).mode = s.mode := rfl
@[simp] theorem memWrite_cd (a : Nat) (v : Byte) (s : State) : (memWrite a v s).cd = s.cd := rfl
@[simp] theorem memWrite_ly (a : Nat) (v : Byte) (s : State) : (memWrite a v s).ly = s.ly := rfl
@[simp] theorem memWrite_spr (a : Nat) (v : Byte) (s : State) : (memWrite a v s).spr = s.spr := rfl
@[simp] theorem memWrite_sprH (a : Nat) (v : Byte) (s : State) : (memWrite a v s).sprH = s.sprH := rfl
@[simp] theorem memWrite_fb (a : Nat) (v : Byte) (s : State) : (memWrite a v s).fb = s.fb := rfl
@[simp] theorem memWrite_out (a : Nat) (v : Byte) (s : State) : (memWrite a v s).out = s.out := rfl
@[simp] theorem memWrite_mem (a : Nat) (v : Byte) (s : State) : (memWrite a v s).mem = s.mem.write (a % 65536) v := rfl
@[simp] theorem memWrite_vram1 (a : Nat) (v : Byte) (s : State) : (memWrite a v s).vram1 = s.vram1 := rfl
@[simp] theorem memWrite_result (a : Nat) (v : Byte) (s : State) : (memWrite a v s).result = s.result := rfl
@[simp] theorem memWrite_pending (a : Nat) (v : Byte) (s : State) : (memWrite a v s).pending = s.pending := rfl

/-! ### equality -/

/-- A conditional event as one record update. -/
theorem emitIf_eq (c : Bool) (e : Event) (s : State) :
    s.emitIf c e = { s with out := s.out ++ (if c then [e] else []) } := by
  cases c <;> simp [State.emitIf, State.emit]

theorem displayOn_eq (s : State) : s.displayOn = s.lcdc.getLsbD 7 := rfl

end Sys2Proof.Machine
end

