-- ==== Sys2Proof/Laws/Ops.lean ====
section
/-! SUPPORT. One lemma per shared operation, saying once what it can do. -/

namespace Sys2Proof.Machine

/-! ### The address map -/

@[simp] theorem regAt_addr (r : Reg) : regAt r.addr = some r := by cases r <;> decide

theorem regAt_eq_some {a : Addr} {r : Reg} (h : regAt a = some r) : r.addr = a := by
  have := List.find?_some h
  simpa using this

theorem acceptedReg_addr (v : Variant) (r : Reg) :
    acceptedReg v r.addr = if r.inVariant v then some r else none := by
  simp [acceptedReg, Option.filter]

theorem accepts_addr (v : Variant) (r : Reg) : accepts v r.addr = r.inVariant v := by
  simp only [accepts, acceptedReg_addr]
  cases r.inVariant v <;> rfl

theorem acceptedReg_none {v : Variant} {a : Addr} (h : accepts v a = false) : acceptedReg v a = none := by
  simpa [accepts] using h

/-- No register lies below `0xFF40` (30_encoding.md R102). -/
theorem regAt_low {a : Addr} (h : a.toNat < 0xFF40) : regAt a = none := by
  rw [regAt, List.find?_eq_none]
  intro r _ hr
  have h2 : r.addr = a := by simpa using hr
  subst h2
  revert h
  cases r <;> decide

theorem accepts_low {v : Variant} {a : Addr} (h : a.toNat < 0xFF40) : accepts v a = false := by
  simp [accepts, acceptedReg, regAt_low h]

/-- The destinations of DMA and HDMA are no registers, so `MemWrite` is a store into platform memory (20_memory.md R73, log 6). -/
theorem transfer_destination_not_accepted (v : Variant) (a : Nat)
    (h : (0xFE00 ≤ a ∧ a ≤ 0xFE9F) ∨ (0x8000 ≤ a ∧ a ≤ 0xA7FE)) : accepts v (BitVec.ofNat 16 a) = false := by
  apply accepts_low
  simp only [BitVec.toNat_ofNat]
  omega

/-! ### Bus reads -/

theorem memRead_eq (s : State) (a : Nat) :
    memRead s a = match acceptedReg s.cfg.variant (BitVec.ofNat 16 a) with
      | some r => regRead r s
      | none => s.mem.read (a % 65536) := rfl

theorem memRead_unaccepted {s : State} {a : Nat} (h : accepts s.cfg.variant (BitVec.ofNat 16 a) = false) :
    memRead s a = s.mem.read (a % 65536) := by
  rw [memRead_eq, acceptedReg_none h]

/-- Below the registers the bus reads platform memory. -/
theorem memRead_low {s : State} {a : Nat} (h : a < 0xFF40) : memRead s a = s.mem.read a := by
  rw [memRead_unaccepted (accepts_low (by simp only [BitVec.toNat_ofNat]; omega)), Nat.mod_eq_of_lt (by omega)]

/-- What a bus read depends on: the memory at an unaccepted address, the block otherwise. -/
theorem memRead_congr {s t : State} {a : Nat} (hv : t.cfg = s.cfg) (hr : ∀ r, regRead r t = regRead r s)
    (hm : accepts s.cfg.variant (BitVec.ofNat 16 a) = false → t.mem.read (a % 65536) = s.mem.read (a % 65536)) :
    memRead t a = memRead s a := by
  rw [memRead_eq, memRead_eq, hv]
  cases h : acceptedReg s.cfg.variant (BitVec.ofNat 16 a) with
  | some r => simp [hr r]
  | none => exact hm (by simp [accepts, h])

/-- No register's read depends on platform memory. -/
@[simp] theorem regRead_memWrite (r : Reg) (a : Nat) (v : Byte) (s : State) :
    regRead r (memWrite a v s) = regRead r s := by cases r <;> rfl

/-! ### Bus transactions of the driver -/

theorem busRead_accepted {r : Reg} {s : State} (h : r.inVariant s.cfg.variant = true) :
    busRead r s = .next { s with result := .byte (regRead r s) } := by
  simp [busRead, h, done, State.answer]

theorem busRead_unaccepted {r : Reg} {s : State} (h : r.inVariant s.cfg.variant = false) :
    busRead r s = .next { s with result := .byte (s.mem.read r.addr.toNat) } := by
  simp [busRead, h, platformRead, State.answer]

theorem busWrite_accepted {r : Reg} {s : State} (val : Byte) (f : State → State)
    (h : r.inVariant s.cfg.variant = true) :
    busWrite r val f s = .next { f s with result := .nothing } := by
  simp [busWrite, h, done, State.answer]

theorem busWrite_unaccepted {r : Reg} {s : State} (val : Byte) (f : State → State)
    (h : r.inVariant s.cfg.variant = false) :
    busWrite r val f s = .next { s with mem := s.mem.write (r.addr.toNat % 65536) val, result := .nothing } := by
  simp [busWrite, h, platformWrite, memWrite, State.answer]

/-- The only two ways a bus write can end. -/
theorem busWrite_cases (r : Reg) (val : Byte) (f : State → State) (s t : State) (h : busWrite r val f s = .next t) :
    (r.inVariant s.cfg.variant = true ∧ t = (f s).answer .nothing) ∨
    (r.inVariant s.cfg.variant = false ∧ t = platformWrite r.addr val s) := by
  unfold busWrite at h
  split at h
  · rename_i hv
    exact .inl ⟨hv, by simpa [done] using h.symm⟩
  · rename_i hv
    exact .inr ⟨by simpa using hv, by simpa using h.symm⟩

/-! ### The byte copy -/

/-- A copy changes platform memory only. -/
theorem copyBytes_frame (src dst len : Nat) (s : State) :
    copyBytes src dst len s = { s with mem := (copyBytes src dst len s).mem } := by
  induction len with
  | zero => rfl
  | succ n ih =>
    simp only [copyBytes, memWrite_mem]
    rw [memWrite, ih]

@[simp] theorem copyBytes_cfg (src dst len : Nat) (s : State) : (copyBytes src dst len s).cfg = s.cfg := by
  rw [copyBytes_frame]

theorem regRead_copyBytes (r : Reg) (src dst len : Nat) (s : State) :
    regRead r (copyBytes src dst len s) = regRead r s := by
  induction len with
  | zero => rfl
  | succ n ih => simp only [copyBytes, regRead_memWrite, ih]

/-- A byte outside the destination range is as before. -/
theorem copyBytes_read_outside {src dst len : Nat} {s : State} {a : Nat} (hd : dst + len ≤ 65536)
    (ha : a < dst ∨ dst + len ≤ a) : (copyBytes src dst len s).mem.read a = s.mem.read a := by
  induction len with
  | zero => rfl
  | succ n ih =>
    simp only [copyBytes, memWrite_mem]
    rw [Memory.read_write_other _ _ (by rw [Nat.mod_eq_of_lt (by omega)]; omega)]
    exact ih (by omega) (by omega)

/-- Byte `i` of the destination is what the bus answered for its source address after the first `i` bytes. -/
theorem copyBytes_read_inside {src dst len : Nat} {s : State} {i : Nat} (hd : dst + len ≤ 65536) (hi : i < len) :
    (copyBytes src dst len s).mem.read (dst + i) = memRead (copyBytes src dst i s) (src + i) := by
  induction len with
  | zero => omega
  | succ n ih =>
    simp only [copyBytes, memWrite_mem]
    by_cases h : i = n
    · subst h
      rw [Nat.mod_eq_of_lt (by omega), Memory.read_write_same]
    · rw [Memory.read_write_other _ _ (by rw [Nat.mod_eq_of_lt (by omega)]; omega)]
      exact ih (by omega) (by omega)

/-- A copy keeps the canonical form of platform memory. -/
theorem copyBytes_wf (src dst len : Nat) {s : State} (h : s.mem.wf 65536 = true) :
    (copyBytes src dst len s).mem.wf 65536 = true := by
  induction len with
  | zero => exact h
  | succ n ih => exact Memory.wf_write _ (Nat.mod_lt _ (by decide)) ih

/-! ### The frame buffer -/

theorem entry_eq_none {fb : FrameBuffer} {k : Nat} (h : 23040 ≤ k) : fb.entry k = none := by
  have : 144 ≤ k / 160 := by omega
  simp [FrameBuffer.entry, this]

theorem entry_fill (c : Color) {k : Nat} (h : k < 23040) : (FrameBuffer.fill c).entry k = some c := by
  have : k / 160 < 144 := by omega
  simp [FrameBuffer.entry, FrameBuffer.fill, this]

theorem mkRow_get (f : Nat → Color) {px : Nat} (h : px < 160) : (FrameBuffer.mkRow f)[px] = f px := by
  simp [FrameBuffer.mkRow]

theorem entry_setRow_same (fb : FrameBuffer) {l px : Nat} (f : Nat → Color) (hl : l < 144) (hp : px < 160) :
    (fb.setRow l (FrameBuffer.mkRow f)).entry (160 * l + px) = some (f px) := by
  have h1 : (160 * l + px) / 160 = l := by omega
  have h2 : (160 * l + px) % 160 = px := by omega
  simp [FrameBuffer.entry, FrameBuffer.setRow, h1, h2, hl, FrameBuffer.mkRow]

theorem entry_setRow_other (fb : FrameBuffer) {l k : Nat} (row : Vector Color 160)
    (h : k < 160 * l ∨ 160 * l + 160 ≤ k) : (fb.setRow l row).entry k = fb.entry k := by
  have h1 : l ≠ k / 160 := by omega
  simp [FrameBuffer.entry, FrameBuffer.setRow, h1]

end Sys2Proof.Machine
end

