-- ==== Sys2Proof/Laws/Sequencer.lean ====
section
/-! SUPPORT. What a transition, a cycle and a run of cycles can do, said once. -/

namespace Sys2Proof.Machine

/-- The events of a line boundary before the new mode's (45_mode_state_machine.md R272). -/
def compareEvents (s : State) : List Event :=
  if s.statEn.getLsbD 3 && decide ((s.ly + 1).val = s.lyc.toNat) then [.irqStat] else []

theorem transition_oamSearch {s : State} (h : s.mode = .oamSearch) :
    transition s = { s with
      spr := scanOam s (List.range 40) [], sprH := spriteHeight s, mode := .pixelTransfer, cd := s.cd + 172 } := by
  simp [transition, h, endOamSearch, discover, State.enterMode, Mode.duration]

theorem transition_pixelTransfer {s : State} (h : s.mode = .pixelTransfer) :
    transition s = { s with
      fb := s.fb.setRow s.ly.val (FrameBuffer.mkRow (pixelColor s)), mode := .hblank, cd := s.cd + 204,
      out := s.out ++ (if s.statEn.getLsbD 0 then [.irqStat] else []) } := by
  simp [transition, h, endPixelTransfer, compose, State.enterMode, Mode.duration, emitIf_eq]

theorem lineBoundary_vblank {s : State} (h : (s.ly + 1).val = 144) :
    lineBoundary s = { s with
      ly := s.ly + 1, mode := .vblank, cd := s.cd + 456,
      out := s.out ++ compareEvents s ++ [.irqVblank] ++ (if s.statEn.getLsbD 1 then [.irqStat] else []) ++
        [.frame s.fb] } := by
  simp [lineBoundary, rasterCompare, emitIf_eq, h, enterVBlank, State.enterMode, State.emit, Mode.duration, compareEvents]

theorem lineBoundary_visible {s : State} (h : (s.ly + 1).val < 144) :
    lineBoundary s = { s with
      ly := s.ly + 1, mode := .oamSearch, cd := s.cd + 80,
      out := s.out ++ compareEvents s ++ (if s.statEn.getLsbD 2 then [.irqStat] else []) } := by
  have h2 : (s.ly + 1).val ≠ 144 := by omega
  simp [lineBoundary, rasterCompare, emitIf_eq, h, h2, enterOamSearch, State.enterMode, Mode.duration, compareEvents]

theorem lineBoundary_blank {s : State} (h : 144 < (s.ly + 1).val) :
    lineBoundary s = { s with
      ly := s.ly + 1, mode := .vblank, cd := s.cd + 456, out := s.out ++ compareEvents s } := by
  have h2 : (s.ly + 1).val ≠ 144 := by omega
  have h3 : ¬ (s.ly + 1).val < 144 := by omega
  simp [lineBoundary, rasterCompare, emitIf_eq, h2, h3, stayVBlank, State.enterMode, Mode.duration, compareEvents]

theorem transition_boundary {s : State} (h : s.mode = .hblank ∨ s.mode = .vblank) :
    transition s = lineBoundary s := by
  rcases h with h | h <;> simp [transition, h]

/-- Everything a transition can do (45_mode_state_machine.md R282): which mode it leaves, which it enters, what it writes. -/
theorem transition_cases (s : State) :
    (s.mode = .oamSearch ∧ transition s = { s with
      spr := scanOam s (List.range 40) [], sprH := spriteHeight s, mode := .pixelTransfer, cd := s.cd + 172 }) ∨
    (s.mode = .pixelTransfer ∧ transition s = { s with
      fb := s.fb.setRow s.ly.val (FrameBuffer.mkRow (pixelColor s)), mode := .hblank, cd := s.cd + 204,
      out := s.out ++ (if s.statEn.getLsbD 0 then [.irqStat] else []) }) ∨
    ((s.mode = .hblank ∨ s.mode = .vblank) ∧ (s.ly + 1).val = 144 ∧ transition s = { s with
      ly := s.ly + 1, mode := .vblank, cd := s.cd + 456,
      out := s.out ++ compareEvents s ++ [.irqVblank] ++ (if s.statEn.getLsbD 1 then [.irqStat] else []) ++
        [.frame s.fb] }) ∨
    ((s.mode = .hblank ∨ s.mode = .vblank) ∧ (s.ly + 1).val < 144 ∧ transition s = { s with
      ly := s.ly + 1, mode := .oamSearch, cd := s.cd + 80,
      out := s.out ++ compareEvents s ++ (if s.statEn.getLsbD 2 then [.irqStat] else []) }) ∨
    ((s.mode = .hblank ∨ s.mode = .vblank) ∧ 144 < (s.ly + 1).val ∧ transition s = { s with
      ly := s.ly + 1, mode := .vblank, cd := s.cd + 456, out := s.out ++ compareEvents s }) := by
  cases h : s.mode with
  | oamSearch => exact .inl ⟨rfl, by rw [transition_oamSearch h]⟩
  | pixelTransfer => exact .inr (.inl ⟨rfl, by rw [transition_pixelTransfer h]⟩)
  | hblank =>
    rw [transition_boundary (.inl h)]
    rcases Nat.lt_trichotomy (s.ly + 1).val 144 with hl | hl | hl
    · exact .inr (.inr (.inr (.inl ⟨.inl rfl, hl, lineBoundary_visible hl⟩)))
    · exact .inr (.inr (.inl ⟨.inl rfl, hl, lineBoundary_vblank hl⟩))
    · exact .inr (.inr (.inr (.inr ⟨.inl rfl, hl, lineBoundary_blank hl⟩)))
  | vblank =>
    rw [transition_boundary (.inr h)]
    rcases Nat.lt_trichotomy (s.ly + 1).val 144 with hl | hl | hl
    · exact .inr (.inr (.inr (.inl ⟨.inr rfl, hl, lineBoundary_visible hl⟩)))
    · exact .inr (.inr (.inl ⟨.inr rfl, hl, lineBoundary_vblank hl⟩))
    · exact .inr (.inr (.inr (.inr ⟨.inr rfl, hl, lineBoundary_blank hl⟩)))

/-- What a transition leaves alone: every cell of the driver, the palettes, both memories, the model's own fields. The trace
grows. -/
theorem transition_frame (s : State) : ∃ es : List Event,
    transition s = { s with
      mode := (transition s).mode, cd := (transition s).cd, ly := (transition s).ly, spr := (transition s).spr,
      sprH := (transition s).sprH, fb := (transition s).fb, out := s.out ++ es } := by
  rcases transition_cases s with ⟨_, h⟩ | ⟨_, h⟩ | ⟨_, _, h⟩ | ⟨_, _, h⟩ | ⟨_, _, h⟩ <;> rw [h]
  · exact ⟨[], by simp⟩
  · exact ⟨_, rfl⟩
  · exact ⟨_, by simp only [List.append_assoc]; rfl⟩
  · exact ⟨_, by simp only [List.append_assoc]; rfl⟩
  · exact ⟨_, rfl⟩

/-- A transition does not look at the countdown, it only adds to it. -/
theorem transition_cd (s : State) (c : Int) :
    transition { s with cd := c } = { transition s with cd := c + ((transition s).cd - s.cd) } := by
  have key : ∀ t : State, t.mode = s.mode → t.ly = s.ly → t = { s with cd := t.cd } →
      transition t = { transition s with cd := t.cd + ((transition s).cd - s.cd) } := by
    intro t hm hl ht
    rcases transition_cases s with ⟨h, e⟩ | ⟨h, e⟩ | ⟨h, h2, e⟩ | ⟨h, h2, e⟩ | ⟨h, h2, e⟩
    · rw [transition_oamSearch (by rw [hm, h]), e, ht]
      have : ∀ l f, scanOam { s with cd := t.cd } l f = scanOam s l f := by
        intro l
        induction l with
        | nil => intro f; rfl
        | cons a l ih => intro f; unfold scanOam; rw [ih, ih]; rfl
      simp only [this, State.mk.injEq, true_and, and_true]
      exact ⟨by omega, rfl⟩
    · rw [transition_pixelTransfer (by rw [hm, h]), e, ht]
      have : pixelColor { s with cd := t.cd } = pixelColor s := rfl
      simp only [this, State.mk.injEq, true_and, and_true]
      omega
    · rw [transition_boundary (by rw [hm]; exact h), lineBoundary_vblank (by rw [hl]; exact h2), e, ht]
      simp only [compareEvents, State.mk.injEq, true_and, and_true]
      omega
    · rw [transition_boundary (by rw [hm]; exact h), lineBoundary_visible (by rw [hl]; exact h2), e, ht]
      simp only [compareEvents, State.mk.injEq, true_and, and_true]
      omega
    · rw [transition_boundary (by rw [hm]; exact h), lineBoundary_blank (by rw [hl]; exact h2), e, ht]
      simp only [compareEvents, State.mk.injEq, true_and, and_true]
      omega
  exact key { s with cd := c } rfl rfl rfl

/-! ### Cycles -/

theorem cycle_counting {s : State} (h : 1 < s.cd) : cycle s = { s with cd := s.cd - 1 } := by
  have : ¬ (s.cd - 1 ≤ 0) := by omega
  simp [cycle, this]

theorem cycle_spent {s : State} (h : s.cd ≤ 1) : cycle s = transition { s with cd := s.cd - 1 } := by
  have : s.cd - 1 ≤ 0 := by omega
  simp [cycle, this]

/-- What a cycle leaves alone. -/
theorem cycle_frame (s : State) : ∃ es : List Event,
    cycle s = { s with
      mode := (cycle s).mode, cd := (cycle s).cd, ly := (cycle s).ly, spr := (cycle s).spr,
      sprH := (cycle s).sprH, fb := (cycle s).fb, out := s.out ++ es } := by
  by_cases h : 1 < s.cd
  · rw [cycle_counting h]
    exact ⟨[], by simp⟩
  · rw [cycle_spent (by omega)]
    obtain ⟨es, e⟩ := transition_frame { s with cd := s.cd - 1 }
    exact ⟨es, e⟩

theorem cycles_succ (n : Nat) (s : State) : cycles (n + 1) s = cycles n (cycle s) := rfl

theorem cycles_add (a b : Nat) (s : State) : cycles (a + b) s = cycles b (cycles a s) := by
  induction a generalizing s with
  | zero => simp [cycles]
  | succ a ih => rw [Nat.succ_add, cycles_succ, cycles_succ, ih]

/-- While the countdown lasts, cycles only count it down. -/
theorem cycles_counting {n : Nat} {s : State} (h : n < s.cd) : cycles n s = { s with cd := s.cd - n } := by
  induction n generalizing s with
  | zero => simp [cycles]
  | succ n ih =>
    rw [cycles_succ, cycle_counting (by omega), ih (by simp only; omega)]
    simp only [State.mk.injEq, true_and, and_true]
    omega

/-- The cycle that spends the countdown runs the transition. -/
theorem cycles_spent {n : Nat} {s : State} (h : (n : Int) = s.cd) (hn : 0 < n) :
    cycles n s = transition { s with cd := 0 } := by
  obtain ⟨k, rfl⟩ : ∃ k, n = k + 1 := ⟨n - 1, by omega⟩
  rw [cycles_add k 1, cycles_counting (n := k) (by omega)]
  show cycle _ = _
  rw [cycle_spent (by simp only; omega)]
  congr 1
  simp only [State.mk.injEq, true_and, and_true]
  omega

/-- What a run of cycles leaves alone. -/
theorem cycles_frame (n : Nat) (s : State) : ∃ es : List Event,
    cycles n s = { s with
      mode := (cycles n s).mode, cd := (cycles n s).cd, ly := (cycles n s).ly, spr := (cycles n s).spr,
      sprH := (cycles n s).sprH, fb := (cycles n s).fb, out := s.out ++ es } := by
  induction n generalizing s with
  | zero => exact ⟨[], by simp [cycles]⟩
  | succ n ih =>
    obtain ⟨es, e⟩ := ih (cycle s)
    obtain ⟨fs, f⟩ := cycle_frame s
    refine ⟨fs ++ es, ?_⟩
    rw [cycles_succ, e]
    generalize cycles n (cycle s) = t
    rw [f]
    simp

@[simp] theorem cycles_lcdc (n : Nat) (s : State) : (cycles n s).lcdc = s.lcdc := by
  obtain ⟨es, e⟩ := cycles_frame n s
  rw [e]

end Sys2Proof.Machine
end

