-- ==== Sys2Proof/Laws/Exec.lean ====
section
/-! SUPPORT. What a transaction and a step can do, said once: the inversion lemmas the whole-machine proofs start from. -/

namespace Sys2Proof.Machine

/-- The block's own effect of a `WR`, register by register, as the meanings have it. -/
def writeEffect (r : Reg) (val : Byte) (s : State) : State :=
  match r with
  | .lcdc  => writeLcdc val s
  | .stat  => { s with statEn := val.extractLsb' 3 4 }
  | .scy   => { s with scy := val }
  | .scx   => { s with scx := val }
  | .lyc   => { s with lyc := val }
  | .wy    => { s with wy := val }
  | .wx    => { s with wx := val }
  | .ly | .bgp | .obp0 | .obp1 => s
  | .dma   => dmaTransfer val s
  | .hdma1 => { s with hdma1 := val }
  | .hdma2 => { s with hdma2 := val }
  | .hdma3 => { s with hdma3 := val }
  | .hdma4 => { s with hdma4 := val }
  | .hdma5 => hdmaTransfer val s
  | .bcps  => { s with bcps := val &&& 0xBF#8 }
  | .bcpd  => { s with bgpal := s.bgpal.set (portIndex s.bcps) val, bcps := portAdvance s.bcps }
  | .ocps  => { s with ocps := val &&& 0xBF#8 }
  | .ocpd  => { s with obpal := s.obpal.set (portIndex s.ocps) val, ocps := portAdvance s.ocps }

theorem exec_rdInstr (r : Reg) (s : State) : exec (rdInstr r) s = busRead r s := by cases r <;> rfl

theorem exec_wrInstr (r : Reg) (val : Byte) (s : State) :
    exec (wrInstr val r) s = busWrite r val (writeEffect r val) s := by cases r <;> rfl

/-- Every transaction is a read, a write, a tick or the reset. -/
theorem instr_cases (i : Instr) :
    (∃ r, i = rdInstr r) ∨ (∃ r v, i = wrInstr v r) ∨ (∃ n, i = .tick n) ∨ i = .reset := by
  cases i with
  | tick n => exact .inr (.inr (.inl ⟨n, rfl⟩))
  | reset => exact .inr (.inr (.inr rfl))
  | rdLcdc => exact .inl ⟨.lcdc, rfl⟩
  | rdStat => exact .inl ⟨.stat, rfl⟩
  | rdScy => exact .inl ⟨.scy, rfl⟩
  | rdScx => exact .inl ⟨.scx, rfl⟩
  | rdLy => exact .inl ⟨.ly, rfl⟩
  | rdLyc => exact .inl ⟨.lyc, rfl⟩
  | rdDma => exact .inl ⟨.dma, rfl⟩
  | rdBgp => exact .inl ⟨.bgp, rfl⟩
  | rdObp0 => exact .inl ⟨.obp0, rfl⟩
  | rdObp1 => exact .inl ⟨.obp1, rfl⟩
  | rdWy => exact .inl ⟨.wy, rfl⟩
  | rdWx => exact .inl ⟨.wx, rfl⟩
  | rdHdma1 => exact .inl ⟨.hdma1, rfl⟩
  | rdHdma2 => exact .inl ⟨.hdma2, rfl⟩
  | rdHdma3 => exact .inl ⟨.hdma3, rfl⟩
  | rdHdma4 => exact .inl ⟨.hdma4, rfl⟩
  | rdHdma5 => exact .inl ⟨.hdma5, rfl⟩
  | rdBcps => exact .inl ⟨.bcps, rfl⟩
  | rdBcpd => exact .inl ⟨.bcpd, rfl⟩
  | rdOcps => exact .inl ⟨.ocps, rfl⟩
  | rdOcpd => exact .inl ⟨.ocpd, rfl⟩
  | wrLcdc v => exact .inr (.inl ⟨.lcdc, v, rfl⟩)
  | wrStat v => exact .inr (.inl ⟨.stat, v, rfl⟩)
  | wrScy v => exact .inr (.inl ⟨.scy, v, rfl⟩)
  | wrScx v => exact .inr (.inl ⟨.scx, v, rfl⟩)
  | wrLy v => exact .inr (.inl ⟨.ly, v, rfl⟩)
  | wrLyc v => exact .inr (.inl ⟨.lyc, v, rfl⟩)
  | wrDma v => exact .inr (.inl ⟨.dma, v, rfl⟩)
  | wrBgp v => exact .inr (.inl ⟨.bgp, v, rfl⟩)
  | wrObp0 v => exact .inr (.inl ⟨.obp0, v, rfl⟩)
  | wrObp1 v => exact .inr (.inl ⟨.obp1, v, rfl⟩)
  | wrWy v => exact .inr (.inl ⟨.wy, v, rfl⟩)
  | wrWx v => exact .inr (.inl ⟨.wx, v, rfl⟩)
  | wrHdma1 v => exact .inr (.inl ⟨.hdma1, v, rfl⟩)
  | wrHdma2 v => exact .inr (.inl ⟨.hdma2, v, rfl⟩)
  | wrHdma3 v => exact .inr (.inl ⟨.hdma3, v, rfl⟩)
  | wrHdma4 v => exact .inr (.inl ⟨.hdma4, v, rfl⟩)
  | wrHdma5 v => exact .inr (.inl ⟨.hdma5, v, rfl⟩)
  | wrBcps v => exact .inr (.inl ⟨.bcps, v, rfl⟩)
  | wrBcpd v => exact .inr (.inl ⟨.bcpd, v, rfl⟩)
  | wrOcps v => exact .inr (.inl ⟨.ocps, v, rfl⟩)
  | wrOcpd v => exact .inr (.inl ⟨.ocpd, v, rfl⟩)

/-- Everything a transaction can do. -/
theorem exec_next_cases {i : Instr} {s t : State} (h : exec i s = .next t) :
    (∃ r b, i = rdInstr r ∧ t = s.answer (.byte b)) ∨
    (∃ r v, i = wrInstr v r ∧ r.inVariant s.cfg.variant = true ∧ t = (writeEffect r v s).answer .nothing) ∨
    (∃ r v, i = wrInstr v r ∧ r.inVariant s.cfg.variant = false ∧ t = platformWrite r.addr v s) ∨
    (∃ n, i = .tick n ∧ s.displayOn = true ∧ t = (cycles n s).answer (.consumed true)) ∨
    (∃ n, i = .tick n ∧ s.displayOn = false ∧ t = s.answer (.consumed false)) ∨
    (i = .reset ∧ t = (resetBlock s).answer .nothing) := by
  rcases instr_cases i with ⟨r, rfl⟩ | ⟨r, v, rfl⟩ | ⟨n, rfl⟩ | rfl
  · rw [exec_rdInstr] at h
    cases hv : r.inVariant s.cfg.variant with
    | true => rw [busRead_accepted hv] at h; exact .inl ⟨r, _, rfl, by simpa [State.answer] using h.symm⟩
    | false => rw [busRead_unaccepted hv] at h; exact .inl ⟨r, _, rfl, by simpa [State.answer] using h.symm⟩
  · rw [exec_wrInstr] at h
    rcases busWrite_cases _ _ _ _ _ h with ⟨hv, e⟩ | ⟨hv, e⟩
    · exact .inr (.inl ⟨r, v, rfl, hv, e⟩)
    · exact .inr (.inr (.inl ⟨r, v, rfl, hv, e⟩))
  · simp only [exec, execTick, done] at h
    split at h
    · exact .inr (.inr (.inr (.inl ⟨n, rfl, ‹_›, by simpa using h.symm⟩)))
    · rename_i hd
      exact .inr (.inr (.inr (.inr (.inl ⟨n, rfl, by simpa using hd, by simpa using h.symm⟩))))
  · exact .inr (.inr (.inr (.inr (.inr ⟨rfl, by simpa [exec, execReset, done] using h.symm⟩))))

/-- Everything a step can do. -/
theorem step_next_cases {s t : State} (h : step s = .next t) :
    (s.pending = [] ∧ t = s) ∨
    (∃ w rest, s.pending = w :: rest ∧
      ((∃ i, decode w = .ok i ∧ exec i { s with pending := rest } = .next t) ∨
       (∃ a, decode w = .error (.unlistedRead a) ∧ t = platformRead a { s with pending := rest }) ∨
       (∃ a v, decode w = .error (.unlistedWrite a v) ∧ t = platformWrite a v { s with pending := rest }))) := by
  unfold step at h
  split at h
  · exact .inl ⟨‹_›, by simpa using h.symm⟩
  · rename_i w rest hp
    refine .inr ⟨w, rest, hp, ?_⟩
    unfold runWord at h
    split at h
    · exact .inl ⟨_, ‹_›, h⟩
    · exact .inr (.inl ⟨_, ‹_›, by simpa using h.symm⟩)
    · exact .inr (.inr ⟨_, _, ‹_›, by simpa using h.symm⟩)

/-- The two transfers change platform memory and their own register only. -/
theorem dmaTransfer_frame (val : Byte) (s : State) :
    dmaTransfer val s = { s with dma := val, mem := (dmaTransfer val s).mem } := by
  unfold dmaTransfer
  rw [copyBytes_frame]

theorem hdmaTransfer_frame (val : Byte) (s : State) :
    hdmaTransfer val s = { s with hdma5 := 0xFF#8, mem := (hdmaTransfer val s).mem } := by
  simp only [hdmaTransfer]
  rw [copyBytes_frame]

theorem dmaTransfer_wf (val : Byte) {s : State} (h : s.mem.wf 65536 = true) :
    (dmaTransfer val s).mem.wf 65536 = true := copyBytes_wf _ _ _ h

theorem hdmaTransfer_wf (val : Byte) {s : State} (h : s.mem.wf 65536 = true) :
    (hdmaTransfer val s).mem.wf 65536 = true := copyBytes_wf (s := { s with hdma5 := val }) _ _ _ h

/-- What a write to `LCDC` leaves alone, and what it can do to the trace. -/
theorem writeLcdc_frame (val : Byte) (s : State) :
    writeLcdc val s = { s with
      lcdc := val, mode := (writeLcdc val s).mode, cd := (writeLcdc val s).cd, ly := (writeLcdc val s).ly,
      fb := (writeLcdc val s).fb,
      out := s.out ++ (if s.displayOn && !val.getLsbD 7 then [.frame (FrameBuffer.fill (fillColor s))] else []) } := by
  unfold writeLcdc
  cases s.displayOn <;> cases val.getLsbD 7 <;>
    simp [displayDisable, displayEnable, State.emit, fillColor, resolve]

end Sys2Proof.Machine
end

