-- ==== Sys2Proof/Laws/PerInstr.lean ====
section
/-! SUPPORT. Facts stated of every transaction, one lemma per constructor. -/

namespace Sys2Proof.Laws

/-- The kind code of a transaction (30_encoding.md R101). -/
def kindCode : Instr → BitVec 2
  | .rdLcdc => 0#2
  | .wrLcdc _ => 1#2
  | .rdStat => 0#2
  | .wrStat _ => 1#2
  | .rdScy => 0#2
  | .wrScy _ => 1#2
  | .rdScx => 0#2
  | .wrScx _ => 1#2
  | .rdLy => 0#2
  | .wrLy _ => 1#2
  | .rdLyc => 0#2
  | .wrLyc _ => 1#2
  | .rdDma => 0#2
  | .wrDma _ => 1#2
  | .rdBgp => 0#2
  | .wrBgp _ => 1#2
  | .rdObp0 => 0#2
  | .wrObp0 _ => 1#2
  | .rdObp1 => 0#2
  | .wrObp1 _ => 1#2
  | .rdWy => 0#2
  | .wrWy _ => 1#2
  | .rdWx => 0#2
  | .wrWx _ => 1#2
  | .rdHdma1 => 0#2
  | .wrHdma1 _ => 1#2
  | .rdHdma2 => 0#2
  | .wrHdma2 _ => 1#2
  | .rdHdma3 => 0#2
  | .wrHdma3 _ => 1#2
  | .rdHdma4 => 0#2
  | .wrHdma4 _ => 1#2
  | .rdHdma5 => 0#2
  | .wrHdma5 _ => 1#2
  | .rdBcps => 0#2
  | .wrBcps _ => 1#2
  | .rdBcpd => 0#2
  | .wrBcpd _ => 1#2
  | .rdOcps => 0#2
  | .wrOcps _ => 1#2
  | .rdOcpd => 0#2
  | .wrOcpd _ => 1#2
  | .tick _ => 2#2
  | .reset => 3#2

theorem kind_rdWord (r : Reg) : TransWord.kind (rdWord r) = 0#2 := by cases r <;> decide

theorem kind_wrWord (r : Reg) (val : Byte) : TransWord.kind (wrWord r val) = 1#2 :=
  TransWord.kind_append 1#2 (r.addr ++ val)

theorem kind_tickWord (n : BitVec 24) : TransWord.kind (2#2 ++ n) = 2#2 := TransWord.kind_append 2#2 n

/-- The top two bits of a transaction's word are its kind (30_encoding.md R101). -/
def EncodesKind.Statement (i : Instr) : Prop := TransWord.kind (encode i) = kindCode i

theorem EncodesKind.rdLcdc : EncodesKind.Statement .rdLcdc := kind_rdWord .lcdc
theorem EncodesKind.wrLcdc (val : Byte) : EncodesKind.Statement (.wrLcdc val) := kind_wrWord .lcdc val
theorem EncodesKind.rdStat : EncodesKind.Statement .rdStat := kind_rdWord .stat
theorem EncodesKind.wrStat (val : Byte) : EncodesKind.Statement (.wrStat val) := kind_wrWord .stat val
theorem EncodesKind.rdScy : EncodesKind.Statement .rdScy := kind_rdWord .scy
theorem EncodesKind.wrScy (val : Byte) : EncodesKind.Statement (.wrScy val) := kind_wrWord .scy val
theorem EncodesKind.rdScx : EncodesKind.Statement .rdScx := kind_rdWord .scx
theorem EncodesKind.wrScx (val : Byte) : EncodesKind.Statement (.wrScx val) := kind_wrWord .scx val
theorem EncodesKind.rdLy : EncodesKind.Statement .rdLy := kind_rdWord .ly
theorem EncodesKind.wrLy (val : Byte) : EncodesKind.Statement (.wrLy val) := kind_wrWord .ly val
theorem EncodesKind.rdLyc : EncodesKind.Statement .rdLyc := kind_rdWord .lyc
theorem EncodesKind.wrLyc (val : Byte) : EncodesKind.Statement (.wrLyc val) := kind_wrWord .lyc val
theorem EncodesKind.rdDma : EncodesKind.Statement .rdDma := kind_rdWord .dma
theorem EncodesKind.wrDma (val : Byte) : EncodesKind.Statement (.wrDma val) := kind_wrWord .dma val
theorem EncodesKind.rdBgp : EncodesKind.Statement .rdBgp := kind_rdWord .bgp
theorem EncodesKind.wrBgp (val : Byte) : EncodesKind.Statement (.wrBgp val) := kind_wrWord .bgp val
theorem EncodesKind.rdObp0 : EncodesKind.Statement .rdObp0 := kind_rdWord .obp0
theorem EncodesKind.wrObp0 (val : Byte) : EncodesKind.Statement (.wrObp0 val) := kind_wrWord .obp0 val
theorem EncodesKind.rdObp1 : EncodesKind.Statement .rdObp1 := kind_rdWord .obp1
theorem EncodesKind.wrObp1 (val : Byte) : EncodesKind.Statement (.wrObp1 val) := kind_wrWord .obp1 val
theorem EncodesKind.rdWy : EncodesKind.Statement .rdWy := kind_rdWord .wy
theorem EncodesKind.wrWy (val : Byte) : EncodesKind.Statement (.wrWy val) := kind_wrWord .wy val
theorem EncodesKind.rdWx : EncodesKind.Statement .rdWx := kind_rdWord .wx
theorem EncodesKind.wrWx (val : Byte) : EncodesKind.Statement (.wrWx val) := kind_wrWord .wx val
theorem EncodesKind.rdHdma1 : EncodesKind.Statement .rdHdma1 := kind_rdWord .hdma1
theorem EncodesKind.wrHdma1 (val : Byte) : EncodesKind.Statement (.wrHdma1 val) := kind_wrWord .hdma1 val
theorem EncodesKind.rdHdma2 : EncodesKind.Statement .rdHdma2 := kind_rdWord .hdma2
theorem EncodesKind.wrHdma2 (val : Byte) : EncodesKind.Statement (.wrHdma2 val) := kind_wrWord .hdma2 val
theorem EncodesKind.rdHdma3 : EncodesKind.Statement .rdHdma3 := kind_rdWord .hdma3
theorem EncodesKind.wrHdma3 (val : Byte) : EncodesKind.Statement (.wrHdma3 val) := kind_wrWord .hdma3 val
theorem EncodesKind.rdHdma4 : EncodesKind.Statement .rdHdma4 := kind_rdWord .hdma4
theorem EncodesKind.wrHdma4 (val : Byte) : EncodesKind.Statement (.wrHdma4 val) := kind_wrWord .hdma4 val
theorem EncodesKind.rdHdma5 : EncodesKind.Statement .rdHdma5 := kind_rdWord .hdma5
theorem EncodesKind.wrHdma5 (val : Byte) : EncodesKind.Statement (.wrHdma5 val) := kind_wrWord .hdma5 val
theorem EncodesKind.rdBcps : EncodesKind.Statement .rdBcps := kind_rdWord .bcps
theorem EncodesKind.wrBcps (val : Byte) : EncodesKind.Statement (.wrBcps val) := kind_wrWord .bcps val
theorem EncodesKind.rdBcpd : EncodesKind.Statement .rdBcpd := kind_rdWord .bcpd
theorem EncodesKind.wrBcpd (val : Byte) : EncodesKind.Statement (.wrBcpd val) := kind_wrWord .bcpd val
theorem EncodesKind.rdOcps : EncodesKind.Statement .rdOcps := kind_rdWord .ocps
theorem EncodesKind.wrOcps (val : Byte) : EncodesKind.Statement (.wrOcps val) := kind_wrWord .ocps val
theorem EncodesKind.rdOcpd : EncodesKind.Statement .rdOcpd := kind_rdWord .ocpd
theorem EncodesKind.wrOcpd (val : Byte) : EncodesKind.Statement (.wrOcpd val) := kind_wrWord .ocpd val
theorem EncodesKind.tick (n : Nat) : EncodesKind.Statement (.tick n) := kind_tickWord (BitVec.ofNat 24 n)
theorem EncodesKind.reset : EncodesKind.Statement .reset :=
  (by decide : TransWord.kind (encode .reset) = 3#2)

end Sys2Proof.Laws
end

