-- ==== Sys2Proof/Tests/Slice0.lean ====
section
/-! SUPPORT. The model's own tests: words and results taken from 95_test_vectors.md and the rules' examples, on single steps; and
a witness for the hypotheses of every statement that has some. -/

namespace Sys2Proof.Tests

open Sys2Proof.Machine

/-! ## Small states -/

/-- Power-on, MONO. -/
def mono : State := State.resetWith (Config.defaults .mono)

/-- Power-on, COLOR. -/
def color : State := State.resetWith (Config.defaults .color)

/-- Display disabled, as a disable leaves it. -/
def dark : State := { mono with lcdc := 0x00, mode := .hblank, cd := 204 }

/-- The last cycle of OamSearch on line 12. -/
def searching : State :=
  { mono with lcdc := 0x97, mode := .oamSearch, cd := 1, ly := 12, mem := [(0xFE00, 16), (0xFE01, 8), (0xFE02, 2)] }

/-- The last cycle of PixelTransfer on line 12, with a sprite that spans it. -/
def drawing : State :=
  { mono with lcdc := 0x93, mode := .pixelTransfer, cd := 1, ly := 12, sprH := .h16, spr := [⟨0, 0, 2, 0⟩] }

/-- The last cycle of line 143. -/
def lastLine : State := { mono with mode := .hblank, cd := 1, ly := 143, statEn := 0b1010, lyc := 0x90 }

/-- The last cycle of the frame. -/
def lastBlank : State := { mono with mode := .vblank, cd := 1, ly := 153 }

/-- Pattern, map and attribute bytes of V39: tile 1 row 0 `F0 CC`, tile 2 row 0 `FF 00`, map cell (0,0) tile 1. -/
def worked : State :=
  { mono with
    lcdc := 0x93, mode := .pixelTransfer, cd := 1, ly := 0,
    mem := [(0x8010, 0xF0), (0x8011, 0xCC), (0x8020, 0xFF), (0x9800, 0x01)], spr := [⟨0, 4, 2, 0x80⟩] }

/-- A field of the state after a transaction. -/
def after {α : Type} (i : Instr) (f : State → α) (s : State) : Option α :=
  match exec i s with
  | .next t => some (f t)
  | .fault _ => none
  | .refused _ => none

/-- A field of the state after a step. -/
def stepped {α : Type} (f : State → α) (s : State) : Option α :=
  match step s with
  | .next t => some (f t)
  | .fault _ => none
  | .refused _ => none

/-- The answer of a transaction. -/
def answer (i : Instr) (s : State) : Option Answer := after i State.result s

/-- The sequencer triple. -/
def sequencer (s : State) : Mode × Int × Nat := (s.mode, s.cd, s.ly.val)

/-! ## Well-formedness -/

/-- R101: a `TICK` of 2^24 cycles has no word of its own; one less has. -/
theorem test_wellFormed :
    (Instr.tick (2 ^ 24)).wellFormed = false ∧ (Instr.tick (2 ^ 24 - 1)).wellFormed = true ∧
    (Instr.wrLcdc 0xFF).wellFormed = true := by decide

/-! ## Decoding: words written out from R101 and R102, kind, address, value -/

theorem test_decode_bank_reads :
    decode 0b00111111110100000000000000#26 = .ok .rdLcdc ∧ decode 0x0FF4100#26 = .ok .rdStat ∧
    decode 0x0FF4200#26 = .ok .rdScy ∧ decode 0x0FF4300#26 = .ok .rdScx ∧ decode 0x0FF4400#26 = .ok .rdLy ∧
    decode 0x0FF4500#26 = .ok .rdLyc ∧ decode 0x0FF4A00#26 = .ok .rdWy ∧ decode 0x0FF4B00#26 = .ok .rdWx :=
  ⟨rfl, rfl, rfl, rfl, rfl, rfl, rfl, rfl⟩

theorem test_decode_bank_writes :
    decode 0b01111111110100000000010001#26 = .ok (.wrLcdc 0x11) ∧ decode 0x1FF4148#26 = .ok (.wrStat 0x48) ∧
    decode 0x1FF42A5#26 = .ok (.wrScy 0xA5) ∧ decode 0x1FF43A5#26 = .ok (.wrScx 0xA5) ∧
    decode 0x1FF4455#26 = .ok (.wrLy 0x55) ∧ decode 0x1FF45A5#26 = .ok (.wrLyc 0xA5) ∧
    decode 0x1FF4AA5#26 = .ok (.wrWy 0xA5) ∧ decode 0x1FF4BA5#26 = .ok (.wrWx 0xA5) :=
  ⟨rfl, rfl, rfl, rfl, rfl, rfl, rfl, rfl⟩

theorem test_decode_palette :
    decode 0b00111111110110100000000000#26 = .ok .rdBcps ∧ decode 0x1FF6880#26 = .ok (.wrBcps 0x80) ∧
    decode 0x0FF6900#26 = .ok .rdBcpd ∧ decode 0x1FF691F#26 = .ok (.wrBcpd 0x1F) ∧
    decode 0x0FF6A00#26 = .ok .rdOcps ∧ decode 0x1FF6A7E#26 = .ok (.wrOcps 0x7E) ∧
    decode 0x0FF6B00#26 = .ok .rdOcpd ∧ decode 0x1FF6BAA#26 = .ok (.wrOcpd 0xAA) ∧
    decode 0x0FF4700#26 = .ok .rdBgp ∧ decode 0x1FF47E4#26 = .ok (.wrBgp 0xE4) ∧
    decode 0x0FF4800#26 = .ok .rdObp0 ∧ decode 0x1FF481B#26 = .ok (.wrObp0 0x1B) ∧
    decode 0x0FF4900#26 = .ok .rdObp1 ∧ decode 0x1FF4900#26 = .ok (.wrObp1 0x00) :=
  ⟨rfl, rfl, rfl, rfl, rfl, rfl, rfl, rfl, rfl, rfl, rfl, rfl, rfl, rfl⟩

theorem test_decode_transfers :
    decode 0b00111111110100011000000000#26 = .ok .rdDma ∧ decode 0x1FF46C1#26 = .ok (.wrDma 0xC1) ∧
    decode 0b00111111110101000100000000#26 = .ok .rdHdma1 ∧ decode 0x1FF5110#26 = .ok (.wrHdma1 0x10) ∧
    decode 0x0FF5200#26 = .ok .rdHdma2 ∧ decode 0x1FF52F0#26 = .ok (.wrHdma2 0xF0) ∧
    decode 0x0FF5300#26 = .ok .rdHdma3 ∧ decode 0x1FF531F#26 = .ok (.wrHdma3 0x1F) ∧
    decode 0x0FF5400#26 = .ok .rdHdma4 ∧ decode 0x1FF54F8#26 = .ok (.wrHdma4 0xF8) ∧
    decode 0x0FF5500#26 = .ok .rdHdma5 ∧ decode 0x1FF5501#26 = .ok (.wrHdma5 0x01) :=
  ⟨rfl, rfl, rfl, rfl, rfl, rfl, rfl, rfl, rfl, rfl, rfl, rfl⟩

/-- `RD` ignores its value byte and `RESET` its low 24 bits. -/
theorem test_decode_tick_reset :
    decode 0b10000000000000000111001000#26 = .ok (.tick 456) ∧ decode 0x2FFFFFF#26 = .ok (.tick 16777215) ∧
    decode 0b11000000000000000000000000#26 = .ok .reset ∧ decode 0x3123456#26 = .ok .reset ∧
    decode 0x0FF40AB#26 = .ok .rdLcdc :=
  ⟨rfl, rfl, rfl, rfl, rfl⟩

/-- Addresses no row names are refused by name. -/
theorem test_decode_unlisted :
    decode 0x0FF4C00#26 = .error (.unlistedRead 0xFF4C) ∧ decode 0x1800077#26 = .error (.unlistedWrite 0x8000 0x77) :=
  ⟨rfl, rfl⟩

/-- The encoder on the words of the listings. -/
theorem test_encode :
    encode .rdHdma5 = 0x0FF5500#26 ∧ encode (.wrDma 0xC1) = 0x1FF46C1#26 ∧ encode (.tick 456) = 0x20001C8#26 ∧
    encode .reset = 0x3000000#26 := by decide

/-- V8: accepted and unaccepted addresses. -/
theorem test_accepts :
    accepts .mono 0xFF47 = true ∧ accepts .mono 0xFF4C = false ∧ accepts .mono 0xFF55 = false ∧
    accepts .mono 0xFF68 = false ∧ accepts .color 0xFF47 = false ∧ accepts .color 0xFF55 = true ∧
    accepts .color 0xFF6B = true ∧ accepts .color 0xFF6C = false ∧ accepts .color 0x8000 = false := by decide

/-- The host's two entry points. -/
theorem test_host_entry :
    decodeTableWord 32 0x1FF42A5 = some (.wrScy 0xA5) ∧ decodeTableWord 32 0x4000000 = none ∧
    (stepped (fun t => (t.scy, t.pending)) (State.reset.withFetchWord 32 0x1FF42A5)) = some (0xA5, []) := by decide

/-! ## Reads -/

/-- V1 -/
theorem test_reads_mono :
    answer .rdLcdc mono = some (.byte 0x91) ∧ answer .rdStat mono = some (.byte 0x85) ∧
    answer .rdDma mono = some (.byte 0xFF) ∧ answer .rdBgp mono = some (.byte 0xFF) ∧
    answer .rdObp0 mono = some (.byte 0xFF) ∧ answer .rdObp1 mono = some (.byte 0xFF) ∧
    answer .rdWy mono = some (.byte 0x00) := by decide

/-- V2 -/
theorem test_reads_color :
    answer .rdHdma1 color = some (.byte 0x00) ∧ answer .rdHdma5 color = some (.byte 0xFF) ∧
    answer .rdBcps color = some (.byte 0x40) ∧ answer .rdBcpd color = some (.byte 0xFF) ∧
    answer .rdOcps color = some (.byte 0x40) ∧ answer .rdOcpd color = some (.byte 0xFF) := by decide

/-- R144 to R154: each read answers its own cell. -/
theorem test_reads_cells :
    answer .rdScy { mono with scy := 0x9C } = some (.byte 0x9C) ∧ answer .rdScx { mono with scx := 0x9D } = some (.byte 0x9D) ∧
    answer .rdLyc { mono with lyc := 0x9E } = some (.byte 0x9E) ∧ answer .rdWx { mono with wx := 0x9F } = some (.byte 0x9F) ∧
    answer .rdLy lastBlank = some (.byte 0x99) ∧ answer .rdHdma2 { color with hdma2 := 0x22 } = some (.byte 0x22) ∧
    answer .rdHdma3 { color with hdma3 := 0x33 } = some (.byte 0x33) ∧
    answer .rdHdma4 { color with hdma4 := 0x44 } = some (.byte 0x44) := by decide

/-- V30: the mode codes of the status byte. -/
theorem test_stat_modes :
    answer .rdStat { mono with mode := .oamSearch, ly := 2 } = some (.byte 0x82) ∧
    answer .rdStat { mono with mode := .pixelTransfer, ly := 1 } = some (.byte 0x83) ∧
    answer .rdStat { mono with mode := .hblank, ly := 142 } = some (.byte 0x80) := by decide

/-! ## Writes -/

/-- V4 -/
theorem test_wrStat :
    after (.wrStat 0xFF) (regRead .stat) mono = some 0xFD ∧ after (.wrStat 0x48) (regRead .stat) mono = some 0xCD ∧
    after (.wrStat 0x07) (regRead .stat) mono = some 0x85 := by decide

/-- V3 -/
theorem test_wr_cells :
    after (.wrScy 0xA5) State.scy mono = some 0xA5 ∧ after (.wrScx 0xA5) State.scx mono = some 0xA5 ∧
    after (.wrLyc 0xA5) (regRead .stat) mono = some 0x81 ∧ after (.wrWy 0xA5) State.wy mono = some 0xA5 ∧
    after (.wrWx 0xA5) State.wx mono = some 0xA5 ∧ after (.wrLy 0x55) (regRead .ly) mono = some 0x00 := by decide

/-- V7 -/
theorem test_wrLcdc :
    after (.wrLcdc 0x93) sequencer mono = some (.vblank, 456, 0) ∧
    after (.wrLcdc 0x00) sequencer lastLine = some (.hblank, 204, 0) ∧
    after (.wrLcdc 0x00) State.frameCount lastLine = some 1 ∧
    after (.wrLcdc 0x7F) sequencer dark = some (.hblank, 204, 0) ∧
    after (.wrLcdc 0x80) sequencer dark = some (.oamSearch, 76, 0) := by decide

/-- V9 -/
theorem test_fixed_palette :
    resolve mono 0 7 .obj = 0x7FFF ∧ resolve mono 1 0 .bg = 0x56B5 ∧ resolve mono 2 1 .obj = 0x294A ∧
    resolve mono 3 1 .bg = 0x0000 ∧ after (.wrBgp 0xE4) (regRead .bgp) mono = some 0xFF ∧
    after (.wrObp0 0x1B) (regRead .obp0) mono = some 0xFF ∧ after (.wrObp1 0x00) (regRead .obp1) mono = some 0xFF := by decide

/-- V10, V12, R205, R209 -/
theorem test_index_ports :
    after (.wrBcps 0xFF) State.bcps color = some 0xBF ∧ after (.wrBcps 0x80) (regRead .bcps) color = some 0xC0 ∧
    after (.wrOcps 0x7E) State.ocps color = some 0x3E ∧ after (.wrOcps 0x8A) (regRead .ocps) color = some 0xCA := by decide

/-- V11, V12, R210: the index wraps with bit 7 kept; without bit 7 it stays. -/
theorem test_data_ports :
    after (.wrBcpd 0x12) (fun t => (t.bcps, t.bgpal[63], t.obpal[63])) { color with bcps := 0xBF } = some (0x80, 0x12, 0xFF) ∧
    after (.wrOcpd 0xBB) (fun t => (t.ocps, t.obpal[62], t.bgpal[62])) { color with ocps := 0x3E } = some (0x3E, 0xBB, 0xFF) ∧
    after (.wrOcpd 0x12) (fun t => (regRead .ocps t, t.obpal[63])) { color with ocps := 0xBF } = some (0xC0, 0x12) := by decide

/-- R201: the low byte first. -/
theorem test_resolve_color :
    resolve { color with bgpal := (color.bgpal.set 2 0x1F).set 3 0x00 } 1 0 .bg = 0x001F ∧
    resolve { color with obpal := (color.obpal.set 42 0x51).set 43 0x80 } 1 5 .obj = 0x0051 := by decide

/-! ## Transfers -/

/-- V24: rows 2, 3, 5, 6 -/
theorem test_hdma_operands :
    hdmaSrc { color with hdma1 := 0x12, hdma2 := 0x3F } = 0x1230 ∧ hdmaDst { color with hdma3 := 0xF8, hdma4 := 0x07 } = 0x9807 ∧
    hdmaDst { color with hdma3 := 0xFF, hdma4 := 0xFF } = 0x9FFF ∧ hdmaSrc { color with hdma1 := 0xFF, hdma2 := 0xF0 } = 0xFFF0 ∧
    hdmaLen 0x7F = 2048 ∧ hdmaLen 0xFF = 2048 ∧ hdmaLen 0x80 = 16 := by decide

/-- V27: the transfer reads the unit's own registers. -/
theorem test_wrHdma5 :
    after (.wrHdma5 0x80)
      (fun t => ((List.range 8).map (fun i => t.mem.read (0x8100 + i)), t.hdma5))
      { color with hdma1 := 0xFF, hdma2 := 0x5C, hdma3 := 0x01, hdma4 := 0x00, mem := [(0xFF50, 0xAB), (0xFF56, 0xCD)] } =
      some ([0xAB, 0xFF, 0x5C, 0x01, 0x00, 0x80, 0xCD, 0x00], 0xFF) := by decide

/-- V24: the address registers store all 8 bits. -/
theorem test_wr_hdma_cells :
    after (.wrHdma1 0xC0) State.hdma1 color = some 0xC0 ∧ after (.wrHdma2 0x3F) State.hdma2 color = some 0x3F ∧
    after (.wrHdma3 0xF8) State.hdma3 color = some 0xF8 ∧ after (.wrHdma4 0x07) State.hdma4 color = some 0x07 := by decide

/-- V22, MONO, one byte at a time: page `0xFF` reads the block's registers, and platform bytes elsewhere. -/
theorem test_wrDma_source :
    memRead { mono with scy := 0x11 } 0xFF42 = 0x11 ∧ memRead mono 0xFF46 = 0xFF ∧ memRead mono 0xFF41 = 0x85 ∧
    memRead { color with mem := [(0xFF47, 0xE4)] } 0xFF47 = 0xE4 ∧ memRead { color with bcps := 0x85 } 0xFF68 = 0xC5 := by decide

/-- Memory of V20: the first and the last byte of the page, and the byte after it. -/
def paged : State := { mono with mem := [(0xC100, 0xFF), (0xC19F, 0x60), (0xC1A0, 0x5F)] }

/-- V20: the first and the last byte copied, and the byte after them. -/
theorem test_wrDma_bytes :
    (dmaTransfer 0xC1 paged).mem.read 0xFE00 = 0xFF ∧ (dmaTransfer 0xC1 paged).mem.read 0xFE9F = 0x60 ∧
    (dmaTransfer 0xC1 paged).mem.read 0xFEA0 = 0x00 := by
  let s : State := { paged with dma := 0xC1 }
  have first := copyBytes_read_inside (src := 0xC100) (dst := 0xFE00) (len := 160) (i := 0) (s := s) (by decide) (by decide)
  have last := copyBytes_read_inside (src := 0xC100) (dst := 0xFE00) (len := 160) (i := 159) (s := s) (by decide) (by decide)
  have next := copyBytes_read_outside (src := 0xC100) (dst := 0xFE00) (len := 160) (a := 0xFEA0) (s := s) (by decide) (by decide)
  rw [memRead_low (by decide)] at first last
  have source := copyBytes_read_outside (src := 0xC100) (dst := 0xFE00) (len := 159) (a := 0xC19F) (s := s) (by decide) (by decide)
  exact ⟨first.trans (by decide), (last.trans source).trans (by decide), next.trans (by decide)⟩

/-- V8, V28: in MONO `0xFF55` is a platform byte, and so is `0xFF47` in COLOR. -/
theorem test_unaccepted :
    after (.wrHdma5 0x07) (fun t => (t.mem, t.hdma5)) mono = some ([(0xFF55, 0x07)], 0xFF) ∧
    answer .rdHdma5 mono = some (.byte 0x00) ∧ after (.wrBgp 0xE4) State.mem color = some [(0xFF47, 0xE4)] := by decide

/-- A write of zero takes the entry out; entries are kept in order. -/
theorem test_memory :
    Memory.write [(3, 7), (9, 1)] 5 2 = [(3, 7), (5, 2), (9, 1)] ∧ Memory.write [(3, 7), (9, 1)] 3 0 = [(9, 1)] ∧
    Memory.wf 10 [(3, 7), (5, 2), (9, 1)] = true ∧ Memory.wf 9 [(3, 7), (9, 1)] = false ∧ Memory.wf 10 [(3, 0)] = false := by decide

/-! ## The sequencer -/

/-- V30, V35: the transitions, and no tick while the display is disabled. -/
theorem test_tick :
    after (.tick 1) sequencer searching = some (.pixelTransfer, 172, 12) ∧
    after (.tick 1) sequencer { lastLine with ly := 1 } = some (.oamSearch, 80, 2) ∧
    after (.tick 1) sequencer lastBlank = some (.oamSearch, 80, 0) ∧
    after (.tick 3) sequencer { lastBlank with ly := 144 } = some (.vblank, 454, 145) ∧
    after (.tick 5) (fun t => (sequencer t, t.result)) dark = some ((.hblank, 204, 0), .consumed false) := by decide

/-- V33: the order of events at line 144. -/
theorem test_tick_events :
    after (.tick 1) (fun t => (sequencer t, t.out.map (fun e => (e == .irqVblank, e.isIrq)))) lastLine =
      some ((.vblank, 456, 144), [(false, true), (true, true), (false, true), (false, false)]) := by decide

/-- V38: the HBlank enable is sampled at the transition. -/
theorem test_hblank_enable :
    (endPixelTransfer { drawing with statEn := 0b0001 }).out.length = 1 ∧
    (endPixelTransfer { drawing with statEn := 0b1110 }).out.length = 0 := by decide

/-- V54 -/
theorem test_reset :
    after .reset (fun t => (sequencer t, t.lcdc, t.statEn)) { lastLine with lcdc := 0xE7 } = some ((.vblank, 456, 0), 0x91, 0) ∧
    after .reset (fun t => (t.bcps, t.bgpal[5], t.hdma1, t.mem)) { color with bcps := 0x85, hdma1 := 0x11, mem := [(0x8000, 0x77)] } =
      some (0x00, 0xFF, 0x00, [(0x8000, 0x77)]) := by decide

/-! ## Sprites and pixels -/

/-- V15, V16, V19: discovery. -/
theorem test_discover :
    (discover searching).spr = [⟨0, 0, 2, 0⟩] ∧ (discover searching).sprH = .h16 ∧
    Sprite.onLine ⟨-8, 0, 0, 0⟩ .h16 7 = true ∧ Sprite.onLine ⟨-8, 0, 0, 0⟩ .h8 0 = false ∧
    Sprite.onLine ⟨143, 0, 0, 0⟩ .h8 143 = true ∧ Sprite.onLine ⟨144, 0, 0, 0⟩ .h8 143 = false := by decide

/-- V17 -/
theorem test_spriteRowAddr :
    spriteRowAddr ⟨0, 0, 0xFF, 0x40⟩ .h8 0 = 0x8FFE ∧ spriteRowAddr ⟨10, 0, 0x05, 0x00⟩ .h16 21 = 0x8056 ∧
    spriteRowAddr ⟨10, 0, 0x05, 0x40⟩ .h16 21 = 0x8048 ∧ spriteRowAddr ⟨-8, 0, 0x00, 0x00⟩ .h16 0 = 0x8010 := by decide

/-- V18 -/
theorem test_pix :
    (List.range 8).map (pix 0xF0 0xCC) = [3, 3, 1, 1, 2, 2, 0, 0] ∧
    (List.range 8).map (pix 0x3C 0x7E) = [0, 2, 3, 3, 3, 3, 2, 0] := by decide

/-- V39, V40 (a): pixels 3 to 7 of the worked line, the shades standing for the indices. -/
theorem test_worked_line :
    [3, 4, 5, 6, 11, 12].map (pixelColor worked) = [0x56B5, 0x294A, 0x294A, 0x56B5, 0x56B5, 0x7FFF] ∧
    pixelColor { worked with spr := [⟨0, 4, 2, 0x00⟩] } 4 = 0x56B5 ∧ pixelColor { worked with lcdc := 0x91 } 6 = 0x7FFF := by decide

/-- V42: both pattern tables. -/
theorem test_tileRowAddr :
    tileRowAddr { mono with lcdc := 0x81 } 0x7F 0 = 0x97F0 ∧ tileRowAddr { mono with lcdc := 0x81 } 0x80 0 = 0x8800 ∧
    tileRowAddr { mono with lcdc := 0x81 } 0xFF 0 = 0x8FF0 ∧ tileRowAddr mono 0x7F 7 = 0x87FE := by decide

/-- V44: where the window is visible. -/
theorem test_windowVisible :
    windowVisible { mono with lcdc := 0xF1, wx := 166 } 159 = true ∧ windowVisible { mono with lcdc := 0xF1, wx := 166 } 158 = false ∧
    windowVisible { mono with lcdc := 0xF1, wx := 3 } 0 = true ∧ windowVisible { mono with lcdc := 0xF1, wx := 7, wy := 1 } 0 = false := by
  decide

/-! ## Witnesses: states and operands that meet the hypotheses of the statements, clause by clause -/

/-- A state of the invariant in PixelTransfer, its sprite spanning the line at the last of its 16 rows. -/
def midFrame : State := { drawing with ly := 15, mem := [(0x8000, 1), (0xFE00, 16)] }

theorem midFrame_inv : midFrame.Inv where
  sequencer := ⟨by decide, by decide, by decide, by decide, by decide⟩
  sprites := ⟨by decide, by decide, by decide⟩
  bcpsBit6 := by decide
  ocpsBit6 := by decide
  sentinel := by decide
  memForm := by decide
  vramForm := by decide

theorem lastLine_inv : lastLine.Inv where
  sequencer := ⟨by decide, by decide, by decide, by decide, by decide⟩
  sprites := ⟨by decide, by decide, by decide⟩
  bcpsBit6 := by decide
  ocpsBit6 := by decide
  sentinel := by decide
  memForm := by decide
  vramForm := by decide

theorem witness_DisplayControlWrite :
    mono.lcdc.getLsbD 7 = (0x93#8).getLsbD 7 ∧ dark.lcdc.getLsbD 7 = (0x7F#8).getLsbD 7 ∧
    (mono.lcdc.getLsbD 7 = true ∧ (0x11#8).getLsbD 7 = false) ∧
    (dark.lcdc.getLsbD 7 = false ∧ (0x80#8).getLsbD 7 = true) := by decide

theorem witness_FixedPaletteRegion : mono.cfg.variant = .mono := rfl

theorem witness_PaletteIndexPorts : color.cfg.variant = .color := rfl

theorem witness_PaletteDataReads : ({ color with bcps := 0x3F } : State).cfg.variant = .color := rfl

theorem witness_PaletteDataWrites : ({ color with bcps := 0xBF } : State).cfg.variant = .color := rfl

theorem witness_PaletteRoundTrip :
    color.cfg.variant = .color ∧ (0x3F#8).toNat < 64 ∧ (0x00#8).toNat < 64 := by decide

theorem witness_Resolve : mono.cfg.variant = .mono ∧ color.cfg.variant = .color := by decide

theorem witness_HdmaCells : ({ color with hdma1 := 0x12 } : State).cfg.variant = .color := rfl

/-- Row 6 of V24, where the source wraps, and V26, where byte 8 has been overwritten before it is read. -/
theorem witness_HdmaCopies :
    (let s := { color with hdma1 := 0xFF, hdma2 := 0xF0, hdma3 := 0x1F, hdma4 := 0xF8 }
     s.cfg.variant = .color ∧ 0xFFF0 = (s.hdma1.toNat * 256 + s.hdma2.toNat) / 16 * 16 ∧
     0x9FF8 = 0x8000 + (s.hdma3.toNat * 256 + s.hdma4.toNat) % 8192 ∧ 32 = ((0x01#8).toNat % 128 + 1) * 16) ∧
    (let s := { color with hdma1 := 0x80, hdma2 := 0x00, hdma3 := 0x00, hdma4 := 0x08 }
     0x8000 = (s.hdma1.toNat * 256 + s.hdma2.toNat) / 16 * 16 ∧
     0x8008 = 0x8000 + (s.hdma3.toNat * 256 + s.hdma4.toNat) % 8192 ∧ 16 = ((0x80#8).toNat % 128 + 1) * 16 ∧
     0x8008 ≤ (0x8000 + 8) % 65536 ∧ (0x8000 + 8) % 65536 < 0x8008 + 8) := by decide

theorem witness_UnacceptedRegisters :
    accepts mono.cfg.variant Reg.hdma5.addr = false ∧ accepts color.cfg.variant Reg.bgp.addr = false := by decide

theorem witness_BusReads :
    accepts mono.cfg.variant (BitVec.ofNat 16 0x1FF39) = false ∧
    Reg.lcdc.addr = BitVec.ofNat 16 0xFF40 ∧ accepts mono.cfg.variant Reg.lcdc.addr = true := by decide

theorem witness_DecodeInvertsEncode : (Instr.tick (2 ^ 24 - 1)).wellFormed = true ∧ Instr.reset.wellFormed = true := by decide

theorem witness_StepRuns : ∃ (s : State) (rest : List TransWord),
    s.pending = 0x1FF46C1#26 :: rest ∧ decode 0x1FF46C1#26 = .ok (.wrDma 0xC1) :=
  ⟨{ mono with pending := [0x1FF46C1#26] }, [], rfl, rfl⟩

theorem witness_StepLeaves :
    mono.pending = [] ∧
    (∃ (s : State) (rest : List TransWord), s.pending = 0x0FF4C00#26 :: rest ∧
      decode 0x0FF4C00#26 = .error (.unlistedRead 0xFF4C)) ∧
    (∃ (s : State) (rest : List TransWord), s.pending = 0x1800077#26 :: rest ∧
      decode 0x1800077#26 = .error (.unlistedWrite 0x8000 0x77)) :=
  ⟨rfl, ⟨{ mono with pending := [0x0FF4C00#26] }, [], rfl, rfl⟩, ⟨{ mono with pending := [0x1800077#26] }, [], rfl, rfl⟩⟩

theorem witness_Tick : dark.lcdc.getLsbD 7 = false ∧ mono.lcdc.getLsbD 7 = true := by decide

theorem witness_Cycle : 1 < ({ mono with cd := 2 } : State).cd ∧ lastLine.cd ≤ 1 := by decide

theorem witness_OamSearchEnds :
    searching.mode = .oamSearch ∧ (16 : Int) = (if searching.lcdc.getLsbD 2 then 16 else 8) ∧
    (let s := { searching with lcdc := 0x93 }
     s.mode = .oamSearch ∧ (8 : Int) = (if s.lcdc.getLsbD 2 then 16 else 8)) := by decide

theorem witness_PixelTransferEnds :
    drawing.mode = .pixelTransfer ∧ ({ drawing with ly := 143 } : State).ly.val ≤ 143 ∧
    ({ drawing with ly := 0 } : State).ly.val ≤ 143 := by decide

/-- The wrap to line 0, the last visible line, line 144, and the first and last lines after it. -/
theorem witness_LineBoundary :
    (lastLine.mode = .hblank ∧ (144 : Fin 154).val = (lastLine.ly.val + 1) % 154 ∧
      [Event.irqStat] = (if lastLine.statEn.getLsbD 3 = true ∧ (144 : Fin 154).val = lastLine.lyc.toNat then [.irqStat] else [])) ∧
    (0 : Fin 154).val = (lastBlank.ly.val + 1) % 154 ∧ (0 : Fin 154).val < 144 ∧
    (143 : Fin 154).val = (({ lastLine with ly := 142 } : State).ly.val + 1) % 154 ∧ (143 : Fin 154).val < 144 ∧
    (145 : Fin 154).val = (({ lastBlank with ly := 144 } : State).ly.val + 1) % 154 ∧ 144 < (145 : Fin 154).val ∧
    (153 : Fin 154).val = (({ lastBlank with ly := 152 } : State).ly.val + 1) % 154 ∧ 144 < (153 : Fin 154).val := by decide

theorem witness_TicksAddUp : ∃ t, mono.lcdc.getLsbD 7 = true ∧ exec (.tick 333) mono = .next t := ⟨_, rfl, rfl⟩

theorem witness_TickBulk : lastLine.lcdc.getLsbD 7 = true ∧ 1 ≤ lastLine.cd := by decide

theorem witness_FullLine : ∃ t u, midFrame.Inv ∧ midFrame.lcdc.getLsbD 7 = true ∧ 0 + 456 = 456 ∧
    exec (.tick 0) midFrame = .next t ∧ exec (.tick 456) t = .next u :=
  ⟨_, _, midFrame_inv, rfl, rfl, rfl, rfl⟩

theorem witness_VBlankOncePerFrame : ∃ t u v, lastLine.Inv ∧ lastLine.lcdc.getLsbD 7 = true ∧
    exec (.tick 70224) lastLine = .next t ∧ exec (.tick 1) lastLine = .next u ∧
    (∀ n, Instr.rdLy ≠ .tick n) ∧ exec .rdLy lastLine = .next v :=
  ⟨_, _, _, lastLine_inv, rfl, rfl, rfl, by simp, rfl⟩

theorem witness_Timeline : ∃ s0 u, exec .reset lastLine = .next s0 ∧ s0.lcdc.getLsbD 7 = true ∧ exec (.tick 70303) s0 = .next u :=
  ⟨_, _, rfl, rfl, rfl⟩

/-- Rows of V17: the bottom tile, unflipped and flipped, and an 8-line sprite. -/
theorem witness_SpriteRow :
    (let s := { drawing with ly := 21 }
     let sp : Sprite := ⟨10, 0, 0x05, 0x40⟩
     sp.onLine s.sprH s.ly.val = true ∧ (16 : Nat) = (match s.sprH with | .h8 => 8 | .h16 => 16) ∧
     ((4 : Nat) : Int) = (if sp.flags.getLsbD 6 then ((16 : Nat) : Int) - 1 - ((s.ly.val : Int) - sp.y) else (s.ly.val : Int) - sp.y) ∧
     4 = (if 16 = 16 then sp.tile.toNat / 2 * 2 + 4 / 8 else sp.tile.toNat)) ∧
    (let s := { drawing with ly := 15 }
     let sp : Sprite := ⟨0, 0, 0xFE, 0x00⟩
     sp.onLine s.sprH s.ly.val = true ∧
     ((15 : Nat) : Int) = (if sp.flags.getLsbD 6 then ((16 : Nat) : Int) - 1 - ((s.ly.val : Int) - sp.y) else (s.ly.val : Int) - sp.y) ∧
     0xFF = (if 16 = 16 then sp.tile.toNat / 2 * 2 + 15 / 8 else sp.tile.toNat)) ∧
    (let s := { drawing with ly := 0, sprH := .h8 }
     let sp : Sprite := ⟨0, 0, 0xFF, 0x40⟩
     sp.onLine s.sprH s.ly.val = true ∧ (8 : Nat) = (match s.sprH with | .h8 => 8 | .h16 => 16) ∧
     ((7 : Nat) : Int) = (if sp.flags.getLsbD 6 then ((8 : Nat) : Int) - 1 - ((s.ly.val : Int) - sp.y) else (s.ly.val : Int) - sp.y) ∧
     0xFF = (if 8 = 16 then sp.tile.toNat / 2 * 2 + 7 / 8 else sp.tile.toNat)) := by decide

theorem witness_SpriteColumn :
    ((0 : Nat) : Int) = (⟨0, -7, 1, 0x20⟩ : Sprite).x + (7 : Nat) ∧ 7 < 8 ∧
    ((159 : Nat) : Int) = (⟨0, 159, 1, 0⟩ : Sprite).x + (0 : Nat) ∧ 0 < 8 := by decide

/-- The window's first line and last column; a line above it, a column left of it, and the window off. -/
theorem witness_BackgroundPixel :
    (let s := { mono with lcdc := 0xF1, wx := 166, wy := 15, ly := 15 }
     s.lcdc.getLsbD 5 = true ∧ s.ly.val = s.wy.toNat + 0 ∧ 159 + 7 = s.wx.toNat + 0) ∧
    (let s := { mono with lcdc := 0xF1, wx := 7, wy := 16, ly := 15 }
     s.ly.val < s.wy.toNat ∧ s.lcdc.getLsbD 0 = true) ∧
    (let s := { mono with lcdc := 0xF0, wx := 166, wy := 0 }
     158 + 7 < s.wx.toNat ∧ s.lcdc.getLsbD 0 = false) ∧
    mono.lcdc.getLsbD 5 = false := by decide

/-- Both tables: index `0x80` signed at `0x8800`, index `0xFF` unsigned at `0x8FF0`. -/
theorem witness_MapPixel :
    (let s := { mono with lcdc := 0x81, mem := [(0x9800, 0x80)] }
     (0x80#8) = vramRead s false (0x9800 + 32 * (0 / 8) + 0 / 8) ∧
     ((0x8800 : Nat) : Int) = (if s.lcdc.getLsbD 4 then 0x8000 + 16 * ((0x80#8).toNat : Int) else 0x9000 + 16 * (0x80#8).toInt)
       + 2 * ((0 % 8 : Nat) : Int)) ∧
    (let s := { mono with lcdc := 0x91, mem := [(0x9FFF, 0xFF)] }
     (0xFF#8) = vramRead s false (0x9C00 + 32 * (255 / 8) + 255 / 8) ∧
     ((0x8FFE : Nat) : Int) = (if s.lcdc.getLsbD 4 then 0x8000 + 16 * ((0xFF#8).toNat : Int) else 0x9000 + 16 * (0xFF#8).toInt)
       + 2 * ((255 % 8 : Nat) : Int)) := by decide

/-- Sprites off; the second sprite drawn because the first faces a background pixel; and none drawn. -/
theorem witness_FirstDrawnSprite :
    ({ worked with lcdc := 0x91 } : State).lcdc.getLsbD 1 = false ∧
    (let first : Sprite := ⟨0, 4, 2, 0x80⟩
     let second : Sprite := ⟨0, 3, 2, 0x00⟩
     let s := { worked with spr := [first, second] }
     s.lcdc.getLsbD 1 = true ∧ s.spr = [first] ++ second :: [] ∧
     (∀ q ∈ [first], ¬ (q.x ≤ (4 : Nat) ∧ ((4 : Nat) : Int) < q.x + 8 ∧ spritePixelIndex s q 4 ≠ 0 ∧
       ((2#2) = 0 ∨ q.flags.getLsbD 7 = false))) ∧
     second.x ≤ (4 : Nat) ∧ ((4 : Nat) : Int) < second.x + 8 ∧ spritePixelIndex s second 4 ≠ 0 ∧
     ((2#2) = 0 ∨ second.flags.getLsbD 7 = false)) ∧
    (∀ q ∈ worked.spr, ¬ (q.x ≤ (12 : Nat) ∧ ((12 : Nat) : Int) < q.x + 8 ∧ spritePixelIndex worked q 12 ≠ 0 ∧
       ((0#2) = 0 ∨ q.flags.getLsbD 7 = false))) := by decide

/-- Attribute memory cleared and the height bit flipped while a line is drawn; video memory as it was. -/
theorem witness_CompositionSees :
    midFrame.Inv ∧ midFrame.mode = .pixelTransfer ∧
    (∀ a, 0x8000 ≤ a → a ≤ 0x9FFF → Memory.read [(0x8000, 1)] a = midFrame.mem.read a) ∧
    (∀ k, k ≠ 2 → (0x97#8).getLsbD k = midFrame.lcdc.getLsbD k) := by
  refine ⟨midFrame_inv, rfl, ?_, ?_⟩
  · intro a h1 h2
    have : a ≠ 0xFE00 := by omega
    simp [midFrame, Memory.read, this]
  · intro k hk
    by_cases h : k < 8
    · revert hk; revert k; decide
    · rw [BitVec.getLsbD_of_ge _ _ (by omega), BitVec.getLsbD_of_ge _ _ (by omega)]

theorem witness_ParametersNeverChange : ∃ t, step (mono.withFetchWord 32 0x3000000) = .next t := ⟨_, rfl⟩

theorem witness_TraceOnlyGrows : ∃ t, step (lastLine.withFetchWord 32 0x2000001) = .next t := ⟨_, rfl⟩

theorem witness_OnlyTicksRaise : ∃ t, (∀ n, Instr.wrLcdc 0x11 ≠ .tick n) ∧ exec (.wrLcdc 0x11) lastLine = .next t :=
  ⟨_, by simp, rfl⟩

theorem witness_SequencerWriters : ∃ t, exec (.wrLcdc 0x80) dark = .next t ∧ t.mode ≠ dark.mode :=
  ⟨_, rfl, by decide⟩

theorem witness_FrameBufferWriters : ∃ (s t : State), exec (.wrLcdc 0x11) s = .next t ∧ t.fb ≠ s.fb := by
  refine ⟨{ mono with fb := FrameBuffer.fill 0x0000 }, _, rfl, fun h => ?_⟩
  have entry := congrArg (fun fb => FrameBuffer.entry fb 0) h
  revert entry
  decide

theorem witness_StorageWriters :
    (∃ t, exec .reset drawing = .next t ∧ (t.spr ≠ drawing.spr ∨ t.sprH ≠ drawing.sprH)) ∧
    (∃ t, exec (.wrBcpd 0x12) color = .next t ∧ t.bgpal ≠ color.bgpal) ∧
    (∃ t, exec (.wrOcpd 0x12) color = .next t ∧ t.obpal ≠ color.obpal) ∧
    (∃ t, exec (.wrBgp 0x12) color = .next t ∧ t.mem ≠ color.mem) :=
  ⟨⟨_, rfl, .inl (by decide)⟩, ⟨_, rfl, by decide⟩, ⟨_, rfl, by decide⟩, ⟨_, rfl, by decide⟩⟩

theorem witness_Reset : color.cfg.variant = .color ∧ lastLine.cfg.variant = .mono := by decide

theorem witness_EveryStepKeeps : ∃ t, midFrame.Inv ∧ step midFrame = .next t := ⟨_, midFrame_inv, rfl⟩

end Sys2Proof.Tests
end

/-! ## The parameters (00_scope.md R6) -/

namespace Sys2Proof.Machine

/-! ### What each effect of a transaction does to the parameters -/

@[simp] theorem platformRead_cfg (a : Addr) (s : State) : (platformRead a s).cfg = s.cfg := rfl

@[simp] theorem platformWrite_cfg (a : Addr) (v : Byte) (s : State) : (platformWrite a v s).cfg = s.cfg := rfl

@[simp] theorem cycles_cfg (n : Nat) (s : State) : (cycles n s).cfg = s.cfg := by
  obtain ⟨es, e⟩ := cycles_frame n s
  rw [e]

@[simp] theorem writeLcdc_cfg (val : Byte) (s : State) : (writeLcdc val s).cfg = s.cfg := by
  rw [writeLcdc_frame]

@[simp] theorem dmaTransfer_cfg (val : Byte) (s : State) : (dmaTransfer val s).cfg = s.cfg := by
  rw [dmaTransfer_frame]

@[simp] theorem hdmaTransfer_cfg (val : Byte) (s : State) : (hdmaTransfer val s).cfg = s.cfg := by
  rw [hdmaTransfer_frame]

/-- `RESET` reads the parameters and keeps them; the variant only decides whether the COLOR cells are reset (R370). -/
@[simp] theorem resetBlock_cfg (s : State) : (resetBlock s).cfg = s.cfg := by
  unfold resetBlock
  cases hv : s.cfg.variant with
  | mono => simp only [hv]
  | color => simp only [hv, resetColorCells]

/-- Only `LCDC` and the two transfer triggers have more than a plain store as their effect. -/
@[simp] theorem writeEffect_cfg (r : Reg) (val : Byte) (s : State) : (writeEffect r val s).cfg = s.cfg := by
  cases r with
  | lcdc => exact writeLcdc_cfg val s
  | dma => exact dmaTransfer_cfg val s
  | hdma5 => exact hdmaTransfer_cfg val s
  | _ => rfl

/-! ### Transactions and steps -/

/-- No transaction changes a parameter. -/
theorem exec_keeps_cfg {i : Instr} {s t : State} (h : exec i s = .next t) : t.cfg = s.cfg := by
  rcases exec_next_cases h with ⟨r, b, _, rfl⟩ | ⟨r, v, _, _, rfl⟩ | ⟨r, v, _, _, rfl⟩ | ⟨n, _, _, rfl⟩ |
    ⟨n, _, _, rfl⟩ | ⟨_, rfl⟩
  · exact answer_cfg _ s
  · rw [answer_cfg, writeEffect_cfg]
  · exact platformWrite_cfg _ v s
  · rw [answer_cfg, cycles_cfg]
  · exact answer_cfg _ s
  · rw [answer_cfg, resetBlock_cfg]

/-- Settles O44: an idle step stays, a row of the table keeps the parameters, and the platform's accesses do too. -/
theorem parametersNeverChange : Obligations.ParametersNeverChange := by
  intro s t h
  rcases step_next_cases h with ⟨_, rfl⟩ | ⟨w, rest, _, ⟨i, _, hi⟩ | ⟨a, _, rfl⟩ | ⟨a, v, _, rfl⟩⟩
  · rfl
  · rw [exec_keeps_cfg hi]
  · exact platformRead_cfg _ _
  · exact platformWrite_cfg _ _ _

end Sys2Proof.Machine

/-! ## The invariant of the machine's state (10_state.md R30 to R32, R41, R42) -/

namespace Sys2Proof.Machine

/-! ### What the invariant looks at -/

/-- The state with every cell blanked that the invariant does not speak of, so that two states with the same core meet the
invariant together. Of `LCDC` only bit 7 is in the core (R41). -/
def State.invCore (s : State) : State :=
  { s with
    lcdc := if s.displayOn then 0x80#8 else 0x00#8, statEn := 0, scy := 0, scx := 0, lyc := 0, wy := 0, wx := 0, dma := 0,
    hdma1 := 0, hdma2 := 0, hdma3 := 0, hdma4 := 0, bgpal := Vector.replicate 64 0, obpal := Vector.replicate 64 0,
    fb := FrameBuffer.fill 0, out := [], result := .nothing, pending := [] }

theorem invCore_displayOn (s : State) : s.invCore.displayOn = s.displayOn := by
  unfold State.invCore
  cases s.displayOn <;> simp [State.displayOn]

theorem invCore_inv (s : State) : s.invCore.Inv ↔ s.Inv := by
  constructor
  · rintro ⟨⟨hcd, hdraw, hblank, hfirst, hoff⟩, ⟨hten, hrange, hspan⟩, hb, ho, hs, hm, hv⟩
    rw [invCore_displayOn] at hcd hoff
    exact ⟨⟨hcd, hdraw, hblank, hfirst, hoff⟩, ⟨hten, hrange, hspan⟩, hb, ho, hs, hm, hv⟩
  · rintro ⟨⟨hcd, hdraw, hblank, hfirst, hoff⟩, ⟨hten, hrange, hspan⟩, hb, ho, hs, hm, hv⟩
    rw [← invCore_displayOn] at hcd hoff
    exact ⟨⟨hcd, hdraw, hblank, hfirst, hoff⟩, ⟨hten, hrange, hspan⟩, hb, ho, hs, hm, hv⟩

/-- A change outside the core keeps the invariant. -/
theorem State.Inv.of_invCore_eq {s t : State} (h : s.Inv) (e : t.invCore = s.invCore) : t.Inv := by
  rwa [← invCore_inv, e, invCore_inv]

theorem State.Inv.answer {s : State} (h : s.Inv) (r : Answer) : (s.answer r).Inv := h.of_invCore_eq rfl

/-- The three stores of the core the driver reaches outside the sequencer: each keeps its own clause and no other is about it. -/
theorem State.Inv.setStores {s : State} (h : s.Inv) {b o : Byte} {m : Memory} (hb : b.getLsbD 6 = false)
    (ho : o.getLsbD 6 = false) (hm : m.wf 65536 = true) : ({ s with bcps := b, ocps := o, mem := m } : State).Inv := by
  obtain ⟨⟨hcd, hdraw, hblank, hfirst, hoff⟩, ⟨hten, hrange, hspan⟩, _, _, hs, _, hv⟩ := h
  exact ⟨⟨hcd, hdraw, hblank, hfirst, hoff⟩, ⟨hten, hrange, hspan⟩, hb, ho, hs, hm, hv⟩

theorem platformRead_inv (a : Addr) {s : State} (h : s.Inv) : (platformRead a s).Inv := h.answer _

theorem platformWrite_inv (a : Addr) (v : Byte) {s : State} (h : s.Inv) : (platformWrite a v s).Inv :=
  (h.setStores h.bcpsBit6 h.ocpsBit6 (Memory.wf_write v (Nat.mod_lt _ (by decide)) h.memForm)).answer _

/-! ### Where the clauses of the sequencer and of the sprite list hold -/

/-- Where `RESET` puts the sequencer, with the display enabled or not (70_reset_and_hazards.md R370, R373). -/
theorem SequencerInv.of_reset {s : State} (hm : s.mode = .vblank) (hc : s.cd = 456) (hl : s.ly = 0) : SequencerInv s where
  countdown _ := by simp [hm, hc, Mode.duration]
  drawing h := by simp [hm] at h
  blanking _ := hm
  firstLine _ _ := hl
  disabled _ := ⟨hl, .inr ⟨hm, hc⟩⟩

/-- Where a disable puts it, whichever bit 7 has been stored (R280). -/
theorem SequencerInv.of_disable {s : State} (hm : s.mode = .hblank) (hc : s.cd = 204) (hl : s.ly = 0) : SequencerInv s where
  countdown _ := by simp [hm, hc, Mode.duration]
  drawing _ := by simp [hl]
  blanking h := by simp [hl] at h
  firstLine h := by simp [hm] at h
  disabled _ := ⟨hl, .inl ⟨hm, hc⟩⟩

/-- While the display is enabled the clause for a disabled display says nothing. -/
theorem SequencerInv.of_enabled {s : State} (hon : s.displayOn = true) (hc : 1 ≤ s.cd ∧ s.cd ≤ s.mode.duration)
    (hd : s.mode = .oamSearch ∨ s.mode = .pixelTransfer → s.ly.val ≤ 143) (hb : 144 ≤ s.ly.val → s.mode = .vblank)
    (hf : s.mode = .vblank → s.ly.val ≤ 143 → s.ly = 0) : SequencerInv s :=
  ⟨fun _ => hc, hd, hb, hf, fun h => absurd (hon.symm.trans h) (by decide)⟩

/-- The three modes of a visible line. -/
theorem SequencerInv.of_visible {s : State} (hon : s.displayOn = true) (hc : 1 ≤ s.cd ∧ s.cd ≤ s.mode.duration)
    (hm : s.mode ≠ .vblank) (hl : s.ly.val ≤ 143) : SequencerInv s :=
  .of_enabled hon hc (fun _ => hl) (fun hb => absurd hl (by omega)) (fun hv => absurd hv hm)

/-- A line below the visible ones. -/
theorem SequencerInv.of_blank {s : State} (hon : s.displayOn = true) (hc : 1 ≤ s.cd ∧ s.cd ≤ s.mode.duration)
    (hm : s.mode = .vblank) (hl : 144 ≤ s.ly.val) : SequencerInv s :=
  .of_enabled hon hc (by simp [hm]) (fun _ => hm) (fun _ hv => absurd hl (by omega))

theorem SpriteInv.of_nil {s : State} (h : s.spr = []) : SpriteInv s := by
  constructor <;> simp [h]

/-- Outside PixelTransfer only the list's length and its positions matter. -/
theorem SpriteInv.of_not_drawing {s t : State} (h : SpriteInv s) (hs : t.spr = s.spr) (hm : t.mode ≠ .pixelTransfer) :
    SpriteInv t :=
  ⟨hs ▸ h.atMostTen, hs ▸ h.inRange, fun hd => absurd hd hm⟩

/-! ### Discovery (R221) -/

/-- A byte less its bias (R42). -/
theorem oamEntry_inRange (s : State) (i : Nat) :
    -16 ≤ (oamEntry s i).y ∧ (oamEntry s i).y ≤ 239 ∧ -8 ≤ (oamEntry s i).x ∧ (oamEntry s i).x ≤ 247 := by
  have hy := (memRead s (0xFE00 + 4 * i)).isLt
  have hx := (memRead s (0xFE00 + 4 * i + 1)).isLt
  simp only [oamEntry]
  omega

theorem scanOam_length (s : State) (l : List Nat) {found : List Sprite} (h : found.length ≤ 10) :
    (scanOam s l found).length ≤ 10 := by
  induction l generalizing found with
  | nil => exact h
  | cons i rest ih =>
    unfold scanOam
    split
    · rename_i hlt
      split
      · exact ih (by simpa using hlt)
      · exact ih h
    · exact h

/-- The scan adds only table entries that are on the line. -/
theorem mem_scanOam {s : State} {l : List Nat} {found : List Sprite} {sp : Sprite} (h : sp ∈ scanOam s l found) :
    sp ∈ found ∨ ∃ i, sp = oamEntry s i ∧ sp.onLine (spriteHeight s) s.ly.val = true := by
  induction l generalizing found with
  | nil => exact .inl h
  | cons i rest ih =>
    unfold scanOam at h
    split at h
    · split at h
      · rename_i hon
        rcases ih h with hf | hx
        · rcases List.mem_append.mp hf with hf | hi
          · exact .inl hf
          · obtain rfl := List.mem_singleton.mp hi
            exact .inr ⟨i, rfl, hon⟩
        · exact .inr hx
      · exact ih h
    · exact .inl h

/-- A list just discovered meets its invariant, whatever stood there before. -/
theorem SpriteInv.of_discovered {s t : State} (hs : t.spr = scanOam s (List.range 40) []) (hh : t.sprH = spriteHeight s)
    (hl : t.ly = s.ly) : SpriteInv t where
  atMostTen := hs ▸ scanOam_length s _ (Nat.zero_le 10)
  inRange sp h := by
    obtain h | ⟨i, rfl, _⟩ := mem_scanOam (hs ▸ h)
    · cases h
    · exact oamEntry_inRange s i
  spans _ sp h := by
    obtain h | ⟨_, _, hon⟩ := mem_scanOam (hs ▸ h)
    · cases h
    · rwa [hh, hl]

/-! ### Cycles -/

@[simp] theorem cycle_displayOn (s : State) : (cycle s).displayOn = s.displayOn :=
  congrArg (·.getLsbD 7) (cycles_lcdc 1 s)

/-- Each mode is entered with its whole duration when the countdown is spent, on a line its clauses allow. -/
theorem transition_sequencerInv {s : State} (hon : s.displayOn = true) (hcd : s.cd = 0)
    (hdraw : s.mode = .oamSearch ∨ s.mode = .pixelTransfer → s.ly.val ≤ 143) : SequencerInv (transition s) := by
  rcases transition_cases s with ⟨hm, e⟩ | ⟨hm, e⟩ | ⟨_, hl, e⟩ | ⟨_, hl, e⟩ | ⟨_, hl, e⟩ <;> rw [e]
  · exact .of_visible hon (by simp [hcd, Mode.duration]) nofun (hdraw (.inl hm))
  · exact .of_visible hon (by simp [hcd, Mode.duration]) nofun (hdraw (.inr hm))
  · exact .of_blank hon (by simp [hcd, Mode.duration]) rfl hl.ge
  · exact .of_visible hon (by simp [hcd, Mode.duration]) nofun (Nat.le_of_lt_succ hl)
  · exact .of_blank hon (by simp [hcd, Mode.duration]) rfl hl.le

/-- Only the end of OamSearch enters PixelTransfer, and it discovers the line's sprites. -/
theorem transition_spriteInv {s : State} (h : SpriteInv s) : SpriteInv (transition s) := by
  rcases transition_cases s with ⟨_, e⟩ | ⟨_, e⟩ | ⟨_, _, e⟩ | ⟨_, _, e⟩ | ⟨_, _, e⟩ <;> rw [e]
  · exact .of_discovered (s := s) rfl rfl rfl
  all_goals exact h.of_not_drawing rfl nofun

theorem cycle_sequencerInv {s : State} (h : SequencerInv s) (hon : s.displayOn = true) : SequencerInv (cycle s) := by
  obtain ⟨hpos, hdur⟩ := h.countdown hon
  by_cases hc : 1 < s.cd
  · rw [cycle_counting hc]
    exact .of_enabled hon ⟨by simp only; omega, by simp only; omega⟩ h.drawing h.blanking h.firstLine
  · rw [cycle_spent (by omega)]
    exact transition_sequencerInv hon (by simp only; omega) h.drawing

theorem cycle_spriteInv {s : State} (h : SpriteInv s) : SpriteInv (cycle s) := by
  by_cases hc : 1 < s.cd
  · rw [cycle_counting hc]
    exact ⟨h.atMostTen, h.inRange, h.spans⟩
  · rw [cycle_spent (by omega)]
    exact transition_spriteInv (s := { s with cd := s.cd - 1 }) ⟨h.atMostTen, h.inRange, h.spans⟩

theorem cycle_inv {s : State} (h : s.Inv) (hon : s.displayOn = true) : (cycle s).Inv := by
  have hseq := cycle_sequencerInv h.sequencer hon
  have hspr := cycle_spriteInv h.sprites
  obtain ⟨es, e⟩ := cycle_frame s
  rw [e] at hseq hspr ⊢
  exact { h with sequencer := hseq, sprites := hspr }

theorem cycles_inv (n : Nat) {s : State} (h : s.Inv) (hon : s.displayOn = true) : (cycles n s).Inv := by
  induction n generalizing s with
  | zero => exact h
  | succ n ih => exact ih (cycle_inv h hon) (by rw [cycle_displayOn, hon])

/-! ### A write to `LCDC` -/

/-- The three things a write to `LCDC` can do (40_register_bank.md R141). -/
theorem writeLcdc_cases (val : Byte) (s : State) :
    (s.displayOn = true ∧ val.getLsbD 7 = false ∧ writeLcdc val s = displayDisable { s with lcdc := val }) ∨
    (s.displayOn = false ∧ val.getLsbD 7 = true ∧ writeLcdc val s = displayEnable { s with lcdc := val }) ∨
    (val.getLsbD 7 = s.displayOn ∧ writeLcdc val s = { s with lcdc := val }) := by
  unfold writeLcdc
  cases s.displayOn <;> cases val.getLsbD 7 <;> simp


theorem writeLcdc_inv (val : Byte) {s : State} (h : s.Inv) : (writeLcdc val s).Inv := by
  rcases writeLcdc_cases val s with ⟨_, _, e⟩ | ⟨hoff, hv, e⟩ | ⟨hv, e⟩ <;> rw [e]
  · exact { h with sequencer := .of_disable rfl rfl rfl, sprites := h.sprites.of_not_drawing rfl nofun }
  · obtain ⟨hl, _⟩ := h.sequencer.disabled hoff
    exact { h with
      sequencer := .of_visible hv (by simp [displayEnable, Mode.duration]) nofun (by simp [displayEnable, hl])
      sprites := h.sprites.of_not_drawing rfl nofun }
  · refine h.of_invCore_eq ?_
    have hon : ({ s with lcdc := val } : State).displayOn = s.displayOn := hv
    simp only [State.invCore, hon]

/-! ### The other registers -/

/-- The driver's value without bit 6 (R205, R209). -/
theorem dropBit6_getLsbD (val : Byte) : (val &&& 0xBF#8).getLsbD 6 = false := by simp

/-- Advancing an index port keeps its bit 6 (R207, R210). -/
theorem portAdvance_bit6 (port : Byte) : (portAdvance port).getLsbD 6 = port.getLsbD 6 := by
  unfold portAdvance
  split <;> simp

theorem dmaTransfer_inv (val : Byte) {s : State} (h : s.Inv) : (dmaTransfer val s).Inv := by
  rw [dmaTransfer_frame]
  exact (h.setStores h.bcpsBit6 h.ocpsBit6 (dmaTransfer_wf val h.memForm)).of_invCore_eq rfl

/-- The transfer leaves the sentinel it is required to leave (R254). -/
theorem hdmaTransfer_inv (val : Byte) {s : State} (h : s.Inv) : (hdmaTransfer val s).Inv := by
  have hm := hdmaTransfer_wf val h.memForm
  rw [hdmaTransfer_frame]
  obtain ⟨⟨hcd, hdraw, hblank, hfirst, hoff⟩, ⟨hten, hrange, hspan⟩, hb, ho, _, _, hv⟩ := h
  exact ⟨⟨hcd, hdraw, hblank, hfirst, hoff⟩, ⟨hten, hrange, hspan⟩, hb, ho, fun _ => rfl, hm, hv⟩

theorem writeEffect_inv (r : Reg) (val : Byte) {s : State} (h : s.Inv) : (writeEffect r val s).Inv := by
  cases r with
  | lcdc => exact writeLcdc_inv val h
  | dma => exact dmaTransfer_inv val h
  | hdma5 => exact hdmaTransfer_inv val h
  | bcps => exact h.setStores (dropBit6_getLsbD val) h.ocpsBit6 h.memForm
  | ocps => exact h.setStores h.bcpsBit6 (dropBit6_getLsbD val) h.memForm
  | bcpd => exact (h.setStores ((portAdvance_bit6 _).trans h.bcpsBit6) h.ocpsBit6 h.memForm).of_invCore_eq rfl
  | ocpd => exact (h.setStores h.bcpsBit6 ((portAdvance_bit6 _).trans h.ocpsBit6) h.memForm).of_invCore_eq rfl
  | _ => exact h.of_invCore_eq rfl

/-! ### Reset -/

/-- What `RESET` leaves alone in MONO: the cells of COLOR, the trace, both memories (R370). -/
theorem resetBlock_mono {s : State} (hv : s.cfg.variant = .mono) : resetBlock s = { s with
    lcdc := s.cfg.resetLcdc, statEn := s.cfg.resetStatEn, scy := 0, scx := 0, lyc := 0, wy := 0, wx := 0, dma := 0xFF,
    mode := .vblank, cd := 456, ly := 0, spr := [], sprH := .h8, fb := (resetBlock s).fb } := by
  simp only [resetBlock, hv]
  rfl

/-- What `RESET` leaves alone in COLOR: the trace and both memories (R370). -/
theorem resetBlock_color {s : State} (hv : s.cfg.variant = .color) : resetBlock s = { resetColorCells s with
    lcdc := s.cfg.resetLcdc, statEn := s.cfg.resetStatEn, scy := 0, scx := 0, lyc := 0, wy := 0, wx := 0, dma := 0xFF,
    mode := .vblank, cd := 456, ly := 0, spr := [], sprH := .h8, fb := (resetBlock s).fb } := by
  simp only [resetBlock, hv]
  rfl

/-- In COLOR both index ports are cleared and the sentinel is set; in MONO those cells stay. -/
theorem resetBlock_inv {s : State} (h : s.Inv) : (resetBlock s).Inv := by
  cases hv : s.cfg.variant with
  | mono =>
    rw [resetBlock_mono hv]
    exact { h with sequencer := .of_reset rfl rfl rfl, sprites := .of_nil rfl }
  | color =>
    rw [resetBlock_color hv]
    exact {
      sequencer := .of_reset rfl rfl rfl, sprites := .of_nil rfl
      bcpsBit6 := BitVec.getLsbD_zero, ocpsBit6 := BitVec.getLsbD_zero
      sentinel := fun _ => rfl, memForm := h.memForm, vramForm := h.vramForm }

/-- Settles O50: power-on puts the sequencer and the sprite list where `RESET` does, and every other clause holds of the
values of R60, whatever the parameters. -/
theorem resetMeetsTheInvariant : Obligations.ResetMeetsTheInvariant := by
  have key (c : Config) : (State.resetWith c).Inv := {
    sequencer := .of_reset rfl rfl rfl, sprites := .of_nil rfl, bcpsBit6 := BitVec.getLsbD_zero, ocpsBit6 := BitVec.getLsbD_zero
    sentinel := fun _ => rfl, memForm := rfl, vramForm := rfl }
  exact ⟨key, key Config.initial⟩

/-! ### Transactions and steps -/

theorem exec_inv {i : Instr} {s t : State} (hs : s.Inv) (h : exec i s = .next t) : t.Inv := by
  rcases exec_next_cases h with ⟨r, b, _, rfl⟩ | ⟨r, v, _, _, rfl⟩ | ⟨r, v, _, _, rfl⟩ | ⟨n, _, hon, rfl⟩ |
    ⟨n, _, _, rfl⟩ | ⟨_, rfl⟩
  · exact hs.answer _
  · exact (writeEffect_inv r v hs).answer _
  · exact platformWrite_inv _ v hs
  · exact (cycles_inv n hs hon).answer _
  · exact hs.answer _
  · exact (resetBlock_inv hs).answer _

/-- Settles O51: taking the word off the queue is outside the invariant's core, and then the row of the table or the
platform's access keeps it. -/
theorem everyStepKeepsTheInvariant : Obligations.EveryStepKeepsTheInvariant := by
  intro s t hs h
  have hq (ws : List TransWord) : ({ s with pending := ws } : State).Inv := hs.of_invCore_eq rfl
  rcases step_next_cases h with ⟨_, rfl⟩ | ⟨w, rest, _, ⟨i, _, hi⟩ | ⟨a, _, rfl⟩ | ⟨a, v, _, rfl⟩⟩
  · exact hs
  · exact exec_inv (hq rest) hi
  · exact platformRead_inv a (hq rest)
  · exact platformWrite_inv a v (hq rest)

end Sys2Proof.Machine

/-! ## The output trace (10_state.md R50) -/

namespace Sys2Proof.Machine

/-- Only a write that turns the display off adds to the trace, and it adds one frame (R280). -/
theorem writeEffect_out (r : Reg) (val : Byte) (s : State) : s.out <+: (writeEffect r val s).out := by
  cases r with
  | lcdc => rw [writeEffect, writeLcdc_frame]; exact List.prefix_append ..
  | dma => rw [writeEffect, dmaTransfer_frame]
  | hdma5 => rw [writeEffect, hdmaTransfer_frame]
  | _ => exact List.prefix_rfl

theorem cycles_out (n : Nat) (s : State) : s.out <+: (cycles n s).out := by
  obtain ⟨es, e⟩ := cycles_frame n s
  rw [e]
  exact List.prefix_append ..

/-- `RESET` leaves the trace as it is (R370). -/
@[simp] theorem resetBlock_out (s : State) : (resetBlock s).out = s.out := by
  cases hv : s.cfg.variant with
  | mono => rw [resetBlock_mono hv]
  | color => rw [resetBlock_color hv]; rfl

theorem exec_out {i : Instr} {s t : State} (h : exec i s = .next t) : s.out <+: t.out := by
  rcases exec_next_cases h with ⟨r, b, _, rfl⟩ | ⟨r, v, _, _, rfl⟩ | ⟨r, v, _, _, rfl⟩ | ⟨n, _, _, rfl⟩ |
    ⟨n, _, _, rfl⟩ | ⟨_, rfl⟩
  · exact List.prefix_rfl
  · exact writeEffect_out r v s
  · exact List.prefix_rfl
  · exact cycles_out n s
  · exact List.prefix_rfl
  · rw [answer_out, resetBlock_out]

/-- Settles O45: a row of the table adds its events behind the old ones; an idle step and the platform's accesses add none. -/
theorem traceOnlyGrows : Obligations.TraceOnlyGrows := by
  intro s t h
  suffices hp : s.out <+: t.out from hp.imp fun _ => Eq.symm
  rcases step_next_cases h with ⟨_, rfl⟩ | ⟨w, rest, _, ⟨i, _, hi⟩ | ⟨a, _, rfl⟩ | ⟨a, v, _, rfl⟩⟩
  · exact List.prefix_rfl
  · exact exec_out (s := { s with pending := rest }) hi
  · exact List.prefix_rfl
  · exact List.prefix_rfl

end Sys2Proof.Machine

/-! ## The writers of the sequencer (10_state.md R40, 60_exceptions.md R347) -/

namespace Sys2Proof.Machine

/-- The sequencer stands the same in two states: mode, countdown and line. -/
def SameSequencer (s t : State) : Prop := t.mode = s.mode ∧ t.cd = s.cd ∧ t.ly = s.ly

/-- A write to `LCDC` that keeps bit 7 only stores its value (R141). -/
theorem writeLcdc_of_bit7_eq {val : Byte} {s : State} (h : val.getLsbD 7 = s.lcdc.getLsbD 7) :
    writeLcdc val s = { s with lcdc := val } := by
  rw [← displayOn_eq] at h
  rcases writeLcdc_cases val s with ⟨hon, hv, _⟩ | ⟨hon, hv, _⟩ | ⟨_, e⟩
  · exact absurd (hv.symm.trans (h.trans hon)) nofun
  · exact absurd (hv.symm.trans (h.trans hon)) nofun
  · exact e

theorem writeLcdc_sequencer {val : Byte} {s : State} (h : val.getLsbD 7 = s.lcdc.getLsbD 7) :
    SameSequencer s (writeLcdc val s) := by
  rw [writeLcdc_of_bit7_eq h]
  exact ⟨rfl, rfl, rfl⟩

theorem writeEffect_sequencer {r : Reg} (hr : r ≠ .lcdc) (val : Byte) (s : State) :
    SameSequencer s (writeEffect r val s) := by
  cases r with
  | lcdc => exact absurd rfl hr
  | dma => rw [writeEffect, dmaTransfer_frame]; exact ⟨rfl, rfl, rfl⟩
  | hdma5 => rw [writeEffect, hdmaTransfer_frame]; exact ⟨rfl, rfl, rfl⟩
  | _ => exact ⟨rfl, rfl, rfl⟩

/-- Settles O47: of what a transaction can do, a read, the platform's access, a write to another register and a write to `LCDC`
that keeps bit 7 leave the sequencer where it is. -/
theorem sequencerHasThreeWriters : Obligations.SequencerHasThreeWriters := by
  intro i s t h hne
  have moved : ¬ SameSequencer s t := by
    rintro ⟨hm, hc, hl⟩
    simp [hm, hc, hl] at hne
  rcases exec_next_cases h with ⟨r, b, _, rfl⟩ | ⟨r, v, rfl, _, rfl⟩ | ⟨r, v, _, _, rfl⟩ | ⟨n, rfl, _⟩ |
    ⟨n, rfl, _⟩ | ⟨rfl, _⟩
  · exact absurd ⟨rfl, rfl, rfl⟩ moved
  · by_cases hr : r = .lcdc
    · subst hr
      exact .inr (.inr ⟨v, rfl, fun hv => moved (writeLcdc_sequencer hv)⟩)
    · exact absurd (writeEffect_sequencer hr v s) moved
  · exact absurd ⟨rfl, rfl, rfl⟩ moved
  · exact .inl ⟨n, rfl⟩
  · exact .inl ⟨n, rfl⟩
  · exact .inr (.inl rfl)

end Sys2Proof.Machine

/-! ## The master bus and the steps on it (20_memory.md R72, R76, R80, R81) -/

namespace Sys2Proof.Machine

/-- The bus has 16 address lines (R72). -/
theorem memRead_mod (s : State) (a : Nat) : memRead s (a % 65536) = memRead s a := by
  have lines : BitVec.ofNat 16 (a % 65536) = BitVec.ofNat 16 a := by
    apply BitVec.eq_of_toNat_eq
    simp
  rw [memRead_eq, memRead_eq, lines, Nat.mod_mod]

/-- At an accepted address the engine reads what the register answers (R72). -/
theorem memRead_accepted {s : State} {a : Nat} {r : Reg} (ha : r.addr = BitVec.ofNat 16 a)
    (hv : r.inVariant s.cfg.variant = true) : memRead s a = regRead r s := by
  rw [memRead_eq, ← ha, acceptedReg_addr, if_pos hv]

/-- Settles O19: the address map decides, for the engine's read and for the driver's alike. -/
theorem busReadsRouteToTheBlock : Obligations.BusReadsRouteToTheBlock := by
  refine fun s a => ⟨(memRead_mod s a).symm, memRead_unaccepted, fun r ha hacc => ?_⟩
  rw [accepts_addr] at hacc
  rw [exec_rdInstr, busRead_accepted hacc, memRead_accepted ha hacc]

/-- Settles O23: of what a step can find, this is the case of a pending word that is a row of the table. -/
theorem stepRunsTheDecodedTransaction : Obligations.StepRunsTheDecodedTransaction := by
  intro s w rest i hp hd
  simp only [step, hp, runWord, hd]

/-- Settles O43: the block answers a register it has, platform memory any other; either way only the answer is new. -/
theorem readsHaveNoSideEffect : Obligations.ReadsHaveNoSideEffect := by
  intro r s
  rw [exec_rdInstr]
  cases hv : r.inVariant s.cfg.variant with
  | true => exact ⟨_, busRead_accepted hv⟩
  | false => exact ⟨_, busRead_unaccepted hv⟩

end Sys2Proof.Machine

/-! ## The writers of the storage (20_memory.md R82, 60_exceptions.md R347) -/

namespace Sys2Proof.Machine

/-- Each store with the registers whose `WR` can change it. -/
theorem writeEffect_stores (r : Reg) (val : Byte) (s : State) :
    (writeEffect r val s).spr = s.spr ∧ (writeEffect r val s).sprH = s.sprH ∧
    (writeEffect r val s).vram1 = s.vram1 ∧
    ((writeEffect r val s).fb ≠ s.fb → r = .lcdc) ∧
    ((writeEffect r val s).bgpal ≠ s.bgpal → r = .bcpd) ∧
    ((writeEffect r val s).obpal ≠ s.obpal → r = .ocpd) ∧
    ((writeEffect r val s).mem ≠ s.mem → r = .dma ∨ r = .hdma5) := by
  cases r with
  | lcdc => rw [writeEffect, writeLcdc_frame]; simp
  | dma => rw [writeEffect, dmaTransfer_frame]; simp
  | hdma5 => rw [writeEffect, hdmaTransfer_frame]; simp
  | _ => simp [writeEffect]

/-- A run of cycles writes neither palette and neither memory (R347). -/
theorem cycles_stores (n : Nat) (s : State) :
    (cycles n s).bgpal = s.bgpal ∧ (cycles n s).obpal = s.obpal ∧ (cycles n s).vram1 = s.vram1 ∧
    (cycles n s).mem = s.mem := by
  obtain ⟨es, e⟩ := cycles_frame n s
  rw [e]
  exact ⟨rfl, rfl, rfl, rfl⟩

/-- `RESET` leaves the platform's two memories as they are (R370). -/
theorem resetBlock_platform (s : State) : (resetBlock s).vram1 = s.vram1 ∧ (resetBlock s).mem = s.mem := by
  cases hv : s.cfg.variant with
  | mono => rw [resetBlock_mono hv]; exact ⟨rfl, rfl⟩
  | color => rw [resetBlock_color hv]; exact ⟨rfl, rfl⟩

/-- Settles O48: by what a transaction can do; a read writes nothing, and the platform's store reaches platform memory alone. -/
theorem storageHasNoOtherWriters : Obligations.StorageHasNoOtherWriters := by
  intro i s t h
  rcases exec_next_cases h with ⟨r, b, _, rfl⟩ | ⟨r, v, rfl, _, rfl⟩ | ⟨r, v, rfl, hv, rfl⟩ | ⟨n, rfl, _, rfl⟩ |
    ⟨n, _, _, rfl⟩ | ⟨rfl, rfl⟩
  · simp
  · obtain ⟨hspr, hsprH, hvram, hfb, hbg, hobj, hmem⟩ := writeEffect_stores r v s
    refine ⟨fun hne => ?_, fun hne => ?_, fun hne => ?_, fun hne => ?_, hvram, fun hne => ?_⟩
    · simp [hspr, hsprH] at hne
    · obtain rfl := hfb hne
      exact .inr (.inr ⟨v, rfl⟩)
    · obtain rfl := hbg hne
      exact .inr ⟨v, rfl⟩
    · obtain rfl := hobj hne
      exact .inr ⟨v, rfl⟩
    · obtain rfl | rfl := hmem hne
      · exact .inl ⟨v, rfl⟩
      · exact .inr (.inl ⟨v, rfl⟩)
  · have lacking : accepts s.cfg.variant r.addr = false := (accepts_addr _ r).trans hv
    refine ⟨?_, ?_, ?_, ?_, rfl, fun _ => .inr (.inr ⟨r, v, rfl, lacking⟩)⟩ <;> simp [platformWrite]
  · obtain ⟨hbg, hobj, hvram, hmem⟩ := cycles_stores n s
    simp [hbg, hobj, hvram, hmem]
  · simp
  · obtain ⟨hvram, hmem⟩ := resetBlock_platform s
    simp [hvram, hmem]

end Sys2Proof.Machine

/-! ## What composition reads (20_memory.md R88, R89) -/

namespace Sys2Proof.Machine

/-! ### Every byte it reads lies in video memory -/

/-- An address of the video-memory window (20_memory.md R74). -/
def InVideo (a : Nat) : Prop := 0x8000 ≤ a ∧ a ≤ 0x9FFF

/-- A map position, below 256 both ways, has its cell in one of the two maps (30_encoding.md R123). -/
theorem mapCell_inVideo (select : Bool) {mx my : Nat} (hx : mx < 256) (hy : my < 256) :
    InVideo (mapBase select + 32 * (my / 8) + mx / 8) := by
  have base : mapBase select = 0x9800 ∨ mapBase select = 0x9C00 := by cases select <;> decide
  unfold InVideo
  omega

/-- Both bytes of a tile row lie in the pattern tables, whichever table is selected (46_compositor.md R306). -/
theorem tileRow_inVideo (s : State) (idx : Byte) {r : Nat} (hr : r < 8) :
    InVideo (tileRowAddr s idx r) ∧ InVideo (tileRowAddr s idx r + 1) := by
  have unsigned := idx.isLt
  have signed : idx.toInt < 128 := BitVec.toInt_lt
  unfold tileRowAddr InVideo
  split <;> omega

/-- On a line the sprite spans, its row is one of its own rows (42_sprite_attributes.md R226). -/
theorem spriteRow_lt {sp : Sprite} {h : SpriteHeight} {ly : Nat} (on : sp.onLine h ly = true) :
    (spriteRow sp h ly : Int) < h.lines := by
  simp only [Sprite.onLine, Bool.and_eq_true, decide_eq_true_eq] at on
  unfold spriteRow
  split <;> omega

/-- Both bytes of a sprite's row lie in the table at `0x8000`, if the sprite spans the line (R226). -/
theorem spriteRow_inVideo {sp : Sprite} {h : SpriteHeight} {ly : Nat} (on : sp.onLine h ly = true) :
    InVideo (spriteRowAddr sp h ly) ∧ InVideo (spriteRowAddr sp h ly + 1) := by
  have tile : spriteTile sp h (spriteRow sp h ly) < 256 := by
    have row := spriteRow_lt on
    have byte := sp.tile.isLt
    have even : (sp.tile &&& 0xFE#8).toNat ≤ 254 := Nat.and_le_right
    cases h <;> simp only [spriteTile, SpriteHeight.lines] at row ⊢ <;> omega
  unfold spriteRowAddr InVideo
  omega

/-! ### Two states that differ outside what it reads -/

/-- The state with platform memory and `LCDC` replaced, the cells R88 and R89 let the driver change during a line. -/
def State.altered (m : Memory) (lcdc : Byte) (s : State) : State := { s with mem := m, lcdc := lcdc }

section
variable {s : State} {m : Memory} {lcdc : Byte}
  (hm : ∀ a, 0x8000 ≤ a → a ≤ 0x9FFF → m.read a = s.mem.read a)
  (hc : ∀ k, k ≠ 2 → lcdc.getLsbD k = s.lcdc.getLsbD k)

include hm in
/-- Bank 0 is platform memory, and bank 1 has not been replaced (R74). -/
theorem vramRead_altered (bank : Bool) {a : Nat} (ha : InVideo a) :
    vramRead (s.altered m lcdc) bank a = vramRead s bank a := by
  cases bank with
  | true => rfl
  | false =>
    obtain ⟨lo, hi⟩ := ha
    have low : a < 0xFF40 := by omega
    exact (memRead_low low).trans ((hm a lo hi).trans (memRead_low low).symm)

include hm hc in
theorem mapPixelIndex_altered (select : Bool) {mx my : Nat} (hx : mx < 256) (hy : my < 256) :
    mapPixelIndex (s.altered m lcdc) (mapBase select) mx my = mapPixelIndex s (mapBase select) mx my := by
  have cell : mapTile (s.altered m lcdc) (mapBase select) mx my = mapTile s (mapBase select) mx my :=
    vramRead_altered hm false (mapCell_inVideo select hx hy)
  have addr (idx : Byte) (r : Nat) : tileRowAddr (s.altered m lcdc) idx r = tileRowAddr s idx r := by
    simp only [tileRowAddr, State.altered, hc 4 (by decide)]
  obtain ⟨lo, hi⟩ := tileRow_inVideo s (mapTile s (mapBase select) mx my) (Nat.mod_lt my (by decide : 0 < 8))
  simp only [mapPixelIndex, cell, addr]
  rw [vramRead_altered hm false lo, vramRead_altered hm false hi]

include hc in
theorem windowVisible_altered (px : Nat) : windowVisible (s.altered m lcdc) px = windowVisible s px := by
  have enabled : (s.altered m lcdc).lcdc.getLsbD 5 = s.lcdc.getLsbD 5 := hc 5 (by decide)
  unfold windowVisible
  rw [enabled]
  rfl

include hm hc in
theorem windowPixelIndex_altered {px : Nat} (hp : px < 160) :
    windowPixelIndex (s.altered m lcdc) px = windowPixelIndex s px := by
  have line := s.ly.isLt
  have map : (s.altered m lcdc).lcdc.getLsbD 6 = s.lcdc.getLsbD 6 := hc 6 (by decide)
  unfold windowPixelIndex
  rw [map]
  exact mapPixelIndex_altered hm hc _ (by simp only [State.altered]; omega) (by simp only [State.altered]; omega)

include hm hc in
theorem backgroundPixelIndex_altered (px : Nat) :
    backgroundPixelIndex (s.altered m lcdc) px = backgroundPixelIndex s px := by
  have map : (s.altered m lcdc).lcdc.getLsbD 3 = s.lcdc.getLsbD 3 := hc 3 (by decide)
  unfold backgroundPixelIndex
  rw [map]
  exact mapPixelIndex_altered hm hc _ (Nat.mod_lt _ (by decide)) (Nat.mod_lt _ (by decide))

include hm hc in
theorem bgPixelIndex_altered {px : Nat} (hp : px < 160) :
    bgPixelIndex (s.altered m lcdc) px = bgPixelIndex s px := by
  have enabled : (s.altered m lcdc).lcdc.getLsbD 0 = s.lcdc.getLsbD 0 := hc 0 (by decide)
  simp only [bgPixelIndex, windowVisible_altered hc, windowPixelIndex_altered hm hc hp,
    backgroundPixelIndex_altered hm hc, enabled]

include hm in
/-- The height is the latched one, so only the plane bytes could differ (R88, R225). -/
theorem spritePixelIndex_altered {sp : Sprite} (on : sp.onLine s.sprH s.ly.val = true) (px : Nat) :
    spritePixelIndex (s.altered m lcdc) sp px = spritePixelIndex s sp px := by
  obtain ⟨lo, hi⟩ := spriteRow_inVideo on
  have rows : rowBitmap (s.altered m lcdc) sp = rowBitmap s sp :=
    Prod.ext (vramRead_altered hm _ lo) (vramRead_altered hm _ hi)
  simp only [spritePixelIndex, rows]

include hm hc in
/-- The same sprite of the list is drawn, in the same colour. -/
theorem spritePixel_altered (on : ∀ sp ∈ s.spr, sp.onLine s.sprH s.ly.val = true) (px : Nat) (i : PixelIndex)
    (c : Color) : spritePixel (s.altered m lcdc) px i c = spritePixel s px i c := by
  have enabled : (s.altered m lcdc).lcdc.getLsbD 1 = s.lcdc.getLsbD 1 := hc 1 (by decide)
  have first : s.spr.find? (spriteDrawn (s.altered m lcdc) px i) = s.spr.find? (spriteDrawn s px i) :=
    List.find?_congr fun sp hsp => by simp only [spriteDrawn, spritePixelIndex_altered hm (on sp hsp)]
  unfold spritePixel
  rw [enabled, show (s.altered m lcdc).spr = s.spr from rfl, first]
  cases hf : s.spr.find? (spriteDrawn s px i) with
  | none => rfl
  | some sp =>
    have index := spritePixelIndex_altered (lcdc := lcdc) hm (on sp (List.mem_of_find?_eq_some hf)) px
    simp only [spriteColor, index]
    rfl

include hm hc in
theorem pixelColor_altered (on : ∀ sp ∈ s.spr, sp.onLine s.sprH s.ly.val = true) {px : Nat} (hp : px < 160) :
    pixelColor (s.altered m lcdc) px = pixelColor s px := by
  simp only [pixelColor, bgPixelColor, bgPixelIndex_altered hm hc hp, spritePixel_altered hm hc on]
  rfl

end

/-- A row has 160 columns, so only those of the function matter. -/
theorem mkRow_congr {f g : Nat → Color} (h : ∀ px < 160, f px = g px) : FrameBuffer.mkRow f = FrameBuffer.mkRow g :=
  Vector.ext fun px hp => by rw [mkRow_get f hp, mkRow_get g hp, h px hp]

/-- Settles O41: while a line is drawn every entry of the sprite list spans it, so each of the row's 160 pixels comes from the
latched list, video memory and bits of `LCDC` other than bit 2. -/
theorem compositionSeesOnlyTheLatchedSprites : Obligations.CompositionSeesOnlyTheLatchedSprites := by
  intro s m lcdc hs hmode hm hc
  have row : FrameBuffer.mkRow (pixelColor (s.altered m lcdc)) = FrameBuffer.mkRow (pixelColor s) :=
    mkRow_congr fun px hp => pixelColor_altered hm hc (hs.sprites.spans hmode) hp
  change (transition (s.altered m lcdc)).fb = _
  rw [transition_pixelTransfer (s := s.altered m lcdc) hmode, transition_pixelTransfer hmode]
  simp only [row]
  rfl

end Sys2Proof.Machine

/-! ## The fields of a transaction word (30_encoding.md R101) -/

namespace Sys2Proof.TransWord

/-- A word is its kind, its address and its value in a row. -/
theorem eq_fields (w : TransWord) : w = kind w ++ (addr w ++ val w) := by
  apply BitVec.eq_of_toNat_eq
  rw [toNat_append, toNat_bus, kind_toNat, addr_toNat, val_toNat]
  omega

/-- The mask of a row of the address map keeps the kind and the address. -/
theorem and_rowMask (w : TransWord) : w &&& 0x3FFFF00#26 = kind w ++ (addr w ++ 0#8) :=
  calc w &&& 0x3FFFF00#26
    _ = (kind w ++ (addr w ++ val w)) &&& (BitVec.allOnes 2 ++ (BitVec.allOnes 16 ++ 0#8)) :=
      congrArg (· &&& 0x3FFFF00#26) (eq_fields w)
    _ = (kind w &&& BitVec.allOnes 2) ++ ((addr w ++ val w) &&& (BitVec.allOnes 16 ++ 0#8)) := BitVec.and_append
    _ = (kind w &&& BitVec.allOnes 2) ++ ((addr w &&& BitVec.allOnes 16) ++ (val w &&& 0#8)) :=
      congrArg _ BitVec.and_append
    _ = kind w ++ (addr w ++ 0#8) := by rw [BitVec.and_allOnes, BitVec.and_allOnes, BitVec.and_zero]

/-- The mask of a `TICK` or a `RESET` keeps the kind. -/
theorem and_kindMask (w : TransWord) : w &&& 0x3000000#26 = kind w ++ 0#24 :=
  calc w &&& 0x3000000#26
    _ = (kind w ++ (addr w ++ val w)) &&& (BitVec.allOnes 2 ++ 0#24) := congrArg (· &&& 0x3000000#26) (eq_fields w)
    _ = (kind w &&& BitVec.allOnes 2) ++ ((addr w ++ val w) &&& 0#24) := BitVec.and_append
    _ = kind w ++ 0#24 := by rw [BitVec.and_allOnes, BitVec.and_zero]

/-- The row of kind `k` at address `a`, as the number the opcode table has. -/
theorem ofNat_row {n : Nat} {k : BitVec 2} {a : Addr} (h : n = k.toNat * 2 ^ 24 + a.toNat * 256) :
    BitVec.ofNat 26 n = k ++ (a ++ 0#8) := by
  apply BitVec.eq_of_toNat_eq
  rw [toNat_append, toNat_bus, BitVec.toNat_ofNat, BitVec.toNat_ofNat]
  omega

/-- A word matches the row of kind `k` at address `a` exactly when these are its kind and its address. -/
theorem matches_row (w : TransWord) {n : Nat} {k : BitVec 2} {a : Addr} (h : n = k.toNat * 2 ^ 24 + a.toNat * 256) :
    w &&& 0x3FFFF00#26 = BitVec.ofNat 26 n ↔ kind w = k ∧ addr w = a := by
  rw [and_rowMask, ofNat_row h]
  constructor
  · intro e
    have hk := congrArg kind e
    have ha := congrArg addr e
    rw [kind_append, kind_append] at hk
    rw [addr_append, addr_append] at ha
    exact ⟨hk, ha⟩
  · rintro ⟨rfl, rfl⟩
    rfl

theorem matches_kind (w : TransWord) (k : BitVec 2) : w &&& 0x3000000#26 = k ++ 0#24 ↔ kind w = k := by
  rw [and_kindMask]
  constructor
  · intro h
    have hk := congrArg kind h
    rwa [kind_append, kind_append] at hk
  · rintro rfl
    rfl

/-- The four kinds are all there are. -/
theorem kind_eq_three {w : TransWord} (h0 : kind w ≠ 0) (h1 : kind w ≠ 1) (h2 : kind w ≠ 2) : kind w = 3 := by
  bv_omega

end Sys2Proof.TransWord

/-! ## The decoder and the encoder (30_encoding.md R101, R102) -/

namespace Sys2Proof.Machine

open TransWord Laws

/-! ### The words of the rows -/

theorem encode_rdInstr (r : Reg) : encode (rdInstr r) = rdWord r := by cases r <;> rfl

theorem encode_wrInstr (r : Reg) (val : Byte) : encode (wrInstr val r) = wrWord r val := by cases r <;> rfl

theorem addr_rdWord (r : Reg) : addr (rdWord r) = r.addr := addr_append ..

theorem addr_wrWord (r : Reg) (v : Byte) : addr (wrWord r v) = r.addr := addr_append ..

theorem val_wrWord (r : Reg) (v : Byte) : val (wrWord r v) = v := val_append ..

/-! ### What each kind of word decodes to -/

theorem decode_read {w : TransWord} {r : Reg} (hk : kind w = 0) (ha : addr w = r.addr) :
    decode w = .ok (rdInstr r) := by
  simp only [decode, hk, ha, regAt_addr, if_true]

theorem decode_write {w : TransWord} {r : Reg} (hk : kind w = 1) (ha : addr w = r.addr) :
    decode w = .ok (wrInstr (val w) r) := by
  simp [decode, hk, ha]

theorem decode_tick {w : TransWord} (hk : kind w = 2) : decode w = .ok (.tick (count w).toNat) := by
  simp [decode, hk]

theorem decode_reset {w : TransWord} (hk : kind w = 3) : decode w = .ok .reset := by
  simp [decode, hk]

/-- Everything a word that is a row of the table can decode to. -/
theorem decode_ok_cases {w : TransWord} {i : Instr} (h : decode w = .ok i) :
    (∃ r, kind w = 0 ∧ addr w = r.addr ∧ i = rdInstr r) ∨
    (∃ r, kind w = 1 ∧ addr w = r.addr ∧ i = wrInstr (val w) r) ∨
    (kind w = 2 ∧ i = .tick (count w).toNat) ∨
    (kind w = 3 ∧ i = .reset) := by
  unfold decode at h
  split at h
  next h0 =>
    split at h
    next r ha => exact .inl ⟨r, h0, (regAt_eq_some ha).symm, by simpa using h.symm⟩
    next => exact nomatch h
  next h0 =>
    split at h
    next h1 =>
      split at h
      next r ha => exact .inr (.inl ⟨r, h1, (regAt_eq_some ha).symm, by simpa using h.symm⟩)
      next => exact nomatch h
    next h1 =>
      split at h
      next h2 => exact .inr (.inr (.inl ⟨h2, by simpa using h.symm⟩))
      next h2 => exact .inr (.inr (.inr ⟨kind_eq_three h0 h1 h2, by simpa using h.symm⟩))

/-- A word has the kind, and as far as its kind uses them the address, the value and the count, of the word that encodes what
it decodes to: a row can be told from its word. -/
theorem decode_ok_fields {w : TransWord} {i : Instr} (h : decode w = .ok i) :
    kind w = kind (encode i) ∧
    (kind w = 0 ∨ kind w = 1 → addr w = addr (encode i)) ∧
    (kind w = 1 → val w = val (encode i)) ∧
    (kind w = 2 → i = .tick (count w).toNat) := by
  rcases decode_ok_cases h with ⟨r, hk, ha, rfl⟩ | ⟨r, hk, ha, rfl⟩ | ⟨hk, rfl⟩ | ⟨hk, rfl⟩
  · simp [hk, ha, encode_rdInstr, kind_rdWord, addr_rdWord]
  · simp [hk, ha, encode_wrInstr, kind_wrWord, addr_wrWord, val_wrWord]
  · have tick : kind (encode (.tick (count w).toNat)) = 2 := EncodesKind.tick _
    simp [hk, tick]
  · have reset : kind (encode .reset) = 3 := EncodesKind.reset
    simp [hk, reset]

theorem decode_eq_rdInstr {w : TransWord} {r : Reg} :
    decode w = .ok (rdInstr r) ↔ kind w = 0 ∧ addr w = r.addr := by
  refine ⟨fun h => ?_, fun ⟨hk, ha⟩ => decode_read hk ha⟩
  obtain ⟨hk, ha, -, -⟩ := decode_ok_fields h
  rw [encode_rdInstr, kind_rdWord] at hk
  rw [encode_rdInstr, addr_rdWord] at ha
  exact ⟨hk, ha (.inl hk)⟩

theorem decode_eq_wrInstr {w : TransWord} {r : Reg} {v : Byte} :
    decode w = .ok (wrInstr v r) ↔ kind w = 1 ∧ addr w = r.addr ∧ val w = v := by
  refine ⟨fun h => ?_, fun ⟨hk, ha, hv⟩ => hv ▸ decode_write hk ha⟩
  obtain ⟨hk, ha, hv, -⟩ := decode_ok_fields h
  rw [encode_wrInstr, kind_wrWord] at hk
  rw [encode_wrInstr, addr_wrWord] at ha
  rw [encode_wrInstr, val_wrWord] at hv
  exact ⟨hk, ha (.inr hk), hv hk⟩

theorem decode_eq_tick {w : TransWord} {n : Nat} :
    decode w = .ok (.tick n) ↔ kind w = 2 ∧ (count w).toNat = n := by
  refine ⟨fun h => ?_, fun ⟨hk, hn⟩ => hn ▸ decode_tick hk⟩
  obtain ⟨hk, -, -, hn⟩ := decode_ok_fields h
  have hk : kind w = 2 := hk.trans (EncodesKind.tick n)
  exact ⟨hk, (Instr.tick.inj (hn hk)).symm⟩

theorem decode_eq_reset {w : TransWord} : decode w = .ok .reset ↔ kind w = 3 :=
  ⟨fun h => (decode_ok_fields h).1.trans EncodesKind.reset, decode_reset⟩

/-! ### The statements -/

/-- Settles O20: each of the four forms of a transaction is read back from the fields of its word; a tick fits in them when it is
well formed. -/
theorem decodeInvertsEncode : Obligations.DecodeInvertsEncode := by
  intro i hwf
  rcases instr_cases i with ⟨r, rfl⟩ | ⟨r, v, rfl⟩ | ⟨n, rfl⟩ | rfl
  · rw [encode_rdInstr]
    exact decode_eq_rdInstr.2 ⟨kind_rdWord r, addr_rdWord r⟩
  · rw [encode_wrInstr]
    exact decode_eq_wrInstr.2 ⟨kind_wrWord r v, addr_wrWord r v, val_wrWord r v⟩
  · have fits : n < 2 ^ 24 := of_decide_eq_true hwf
    have low : (count (encode (.tick n))).toNat = n := by
      rw [encode, count_append, BitVec.toNat_ofNat, Nat.mod_eq_of_lt fits]
    exact decode_eq_tick.2 ⟨EncodesKind.tick n, low⟩
  · exact decode_eq_reset.2 EncodesKind.reset

/-- Settles O21: each row's mask keeps the fields that decide it, so matching the row is having its kind and address. -/
theorem decodeFollowsTheOpcodeRows : Obligations.DecodeFollowsTheOpcodeRows := by
  intro w
  refine ⟨fun r => ?_, fun r v => ?_, fun n => ?_, ?_⟩
  · rw [decode_eq_rdInstr, matches_row w (k := 0) (a := r.addr) (by simp)]
  · rw [decode_eq_wrInstr, matches_row w (k := 1) (a := r.addr) (by simp), ← val_toNat, BitVec.toNat_inj, and_assoc]
  · rw [decode_eq_tick, count_toNat]
    exact and_congr_left' (matches_kind w 2#2).symm
  · rw [decode_eq_reset]
    exact (matches_kind w 3#2).symm

/-- Settles O22: each listed word has the fields of the row named. -/
theorem listedWordsDecode : Obligations.ListedWordsDecode :=
  ⟨decode_eq_wrInstr (r := .hdma1).2 (by decide), decode_eq_rdInstr (r := .hdma5).2 (by decide),
   decode_eq_wrInstr (r := .lcdc).2 (by decide), decode_eq_rdInstr (r := .stat).2 (by decide),
   decode_eq_wrInstr (r := .dma).2 (by decide), decode_eq_wrInstr (r := .bcpd).2 (by decide),
   decode_eq_tick.2 (by decide), decode_eq_reset.2 (by decide)⟩

end Sys2Proof.Machine

/-! ## The address map and the platform behind it (20_memory.md R71, R76, 30_encoding.md R102, R130) -/

namespace Sys2Proof.Machine

/-- An address is accepted when a row of the map that has the variant names it. -/
theorem accepts_iff_row {v : Variant} {a : Addr} :
    accepts v a = true ↔ ∃ r ∈ Reg.all, r.inVariant v = true ∧ a.toNat = r.addr.toNat := by
  constructor
  · intro h
    obtain ⟨r, hr⟩ := Option.isSome_iff_exists.1 h
    obtain ⟨hat, hv⟩ := Option.filter_eq_some_iff.1 hr
    exact ⟨r, List.mem_of_find?_eq_some hat, hv, by rw [regAt_eq_some hat]⟩
  · rintro ⟨r, -, hv, ha⟩
    rw [BitVec.eq_of_toNat_eq ha, accepts_addr, hv]

/-- Settles O17: in each variant the rows of the map that have it, written out as numbers, fill the ranges named. -/
theorem acceptedAddressesAreTheMap : Obligations.AcceptedAddressesAreTheMap := by
  intro a
  constructor <;>
    simp only [accepts_iff_row, Reg.all, Reg.inVariant, Reg.addr, List.mem_cons, List.not_mem_nil, exists_eq_or_imp,
      BitVec.toNat_ofNat, Nat.reducePow, Nat.reduceMod, beq_iff_eq, BEq.rfl, reduceCtorEq, true_and, false_and, and_false,
      or_false, false_or, or_self, ↓existsAndEq] <;>
    omega

/-- What platform memory reads as after the driver's store at a bus address. -/
theorem read_write_addr (m : Memory) (a : Addr) (v : Byte) (b : Nat) :
    (m.write (a.toNat % 65536) v).read b = if b = a.toNat then v else m.read b := by
  rw [Nat.mod_eq_of_lt a.isLt, Memory.read_write]

/-- Settles O18: for a register the variant lacks, the bus operations are the platform's read and its store. -/
theorem unacceptedRegistersReachThePlatform : Obligations.UnacceptedRegistersReachThePlatform := by
  intro s r val hacc
  rw [accepts_addr] at hacc
  rw [exec_rdInstr, exec_wrInstr]
  exact ⟨busRead_unaccepted hacc, _, busWrite_unaccepted val _ hacc, read_write_addr s.mem r.addr val⟩

theorem step_pending {s : State} {w : TransWord} {rest : List TransWord} (hp : s.pending = w :: rest) :
    step s = runWord w { s with pending := rest } := by
  simp only [step, hp]

/-- Settles O24: an empty queue and the two ways a word can be no row of the table, each as a step has it. -/
theorem stepLeavesTheRestToThePlatform : Obligations.StepLeavesTheRestToThePlatform := by
  intro s
  refine ⟨fun hp => ?_, fun w rest a hp => ⟨fun hd => ?_, fun v hd => ?_⟩⟩
  · simp only [step, hp]
  · rw [step_pending hp, runWord, hd]
    rfl
  · refine ⟨_, ?_, read_write_addr s.mem a v⟩
    rw [step_pending hp, runWord, hd]
    rfl

end Sys2Proof.Machine

/-! ## The pixels of a tile row and of a sprite (30_encoding.md R122, 42_sprite_attributes.md R227) -/

namespace Sys2Proof.Machine

/-- Bit `k` of a plane byte, moved to the lowest place. -/
theorem shiftRight_and_one (b : Byte) (k : Nat) : (b >>> k) &&& 1#8 = (BitVec.ofBool (b.getLsbD k)).setWidth 8 := by
  rw [BitVec.and_one_eq_setWidth_ofBool_getLsbD, BitVec.getLsbD_ushiftRight, Nat.add_zero]

/-- Plane 1 is the high bit of a pixel index, and column 0 is bit 7 (R122). -/
theorem pix_toNat (lo hi : Byte) (c : Nat) :
    (pix lo hi c).toNat = 2 * (hi.getLsbD (7 - c)).toNat + (lo.getLsbD (7 - c)).toNat := by
  rw [pix, shiftRight_and_one, shiftRight_and_one]
  cases hi.getLsbD (7 - c) <;> cases lo.getLsbD (7 - c) <;> rfl

/-- A sprite's column is its offset from `x`, mirrored by the horizontal flip (R227). -/
theorem column_of_offset {sp : Sprite} {px c : Nat} (h : (px : Int) = sp.x + c) :
    sp.column px = if sp.hflip then 7 - c else c := by
  have offset : ((px : Int) - sp.x).toNat = c := by omega
  rw [Sprite.column, offset]

/-- Settles O37: the two planes' bits at the column, which the flip mirrors. -/
theorem spriteColumnHonoursTheFlip : Obligations.SpriteColumnHonoursTheFlip := by
  refine ⟨fun lo hi c _ => pix_toNat lo hi c, fun s sp px c h _ => ?_⟩
  rw [spritePixelIndex, column_of_offset h]
  rfl

end Sys2Proof.Machine

/-! ## The register bank (40_register_bank.md) -/

namespace Sys2Proof.Machine

/-! ### The registers both variants have (30_encoding.md R102) -/

/-- A register both variants have is read from the block, in every state. -/
theorem exec_rdInstr_common {r : Reg} (hr : ∀ v, r.inVariant v = true) (s : State) :
    exec (rdInstr r) s = .next { s with result := .byte (regRead r s) } := by
  rw [exec_rdInstr, busRead_accepted (hr _)]

/-- A write to a register both variants have takes the block's own effect, in every state. -/
theorem exec_wrInstr_common {r : Reg} (hr : ∀ v, r.inVariant v = true) (val : Byte) (s : State) :
    exec (wrInstr val r) s = .next { writeEffect r val s with result := .nothing } := by
  rw [exec_wrInstr, busWrite_accepted _ _ (hr _)]

/-- Settles O1: both variants have the six registers, and each reads as its cell. -/
theorem plainReadsAnswerTheCell : Obligations.PlainReadsAnswerTheCell := fun s =>
  ⟨exec_rdInstr_common (r := .lcdc) (fun _ => rfl) s, exec_rdInstr_common (r := .scy) (fun _ => rfl) s,
   exec_rdInstr_common (r := .scx) (fun _ => rfl) s, exec_rdInstr_common (r := .lyc) (fun _ => rfl) s,
   exec_rdInstr_common (r := .wy) (fun _ => rfl) s, exec_rdInstr_common (r := .wx) (fun _ => rfl) s⟩

/-- Settles O5: both variants have the five registers, and the effect of each is a store. -/
theorem plainWritesStoreTheByte : Obligations.PlainWritesStoreTheByte := fun s val =>
  ⟨exec_wrInstr_common (r := .scy) (fun _ => rfl) val s, exec_wrInstr_common (r := .scx) (fun _ => rfl) val s,
   exec_wrInstr_common (r := .lyc) (fun _ => rfl) val s, exec_wrInstr_common (r := .wy) (fun _ => rfl) val s,
   exec_wrInstr_common (r := .wx) (fun _ => rfl) val s⟩

/-- Settles O3: a line number fits a byte, and the effect of the write is none. -/
theorem scanlineCounterIsReadOnly : Obligations.ScanlineCounterIsReadOnly := by
  refine fun s val => ⟨⟨regRead .ly s, ?_, exec_rdInstr_common (r := .ly) (fun _ => rfl) s⟩,
    exec_wrInstr_common (r := .ly) (fun _ => rfl) val s⟩
  have line_lt : s.ly.val < 154 := s.ly.isLt
  rw [regRead, BitVec.toNat_ofNat]
  omega

/-! ### The status register (R142, R143) -/

/-- The four fields of the status byte, highest first (R142). -/
theorem statByte_fields (s : State) :
    (statByte s).getLsbD 7 = true ∧ (statByte s).extractLsb' 3 4 = s.statEn ∧
    (statByte s).getLsbD 2 = (statCmp s).getLsbD 0 ∧ (statByte s).extractLsb' 0 2 = statMode s := by
  unfold statByte
  generalize s.statEn = en, statCmp s = cmp, statMode s = mode
  revert en cmp mode
  decide

/-- The compare flag is set exactly when the line is the one `LYC` names (R55). -/
theorem statCmp_set {s : State} : (statCmp s).getLsbD 0 = true ↔ s.ly.val = s.lyc.toNat := by
  unfold statCmp
  split
  next equal => exact iff_of_true rfl equal
  next differ => exact iff_of_false nofun differ

/-- Settles O2: the answer is the status byte, whose fields are the enables, the compare flag and the mode's code. -/
theorem statusReadMirrorsTheSequencer : Obligations.StatusReadMirrorsTheSequencer := by
  intro s
  obtain ⟨bit7, enables, compare, mode⟩ := statByte_fields s
  exact ⟨statByte s, exec_rdInstr_common (r := .stat) (fun _ => rfl) s, bit7, enables,
    by rw [compare, statCmp_set], mode⟩

/-- Settles O4: bit `k` of the field stored is bit `k + 3` of the value. -/
theorem statusWriteStoresTheEnables : Obligations.StatusWriteStoresTheEnables := by
  refine fun s val => ⟨val.extractLsb' 3 4, exec_wrInstr_common (r := .stat) (fun _ => rfl) val s, fun k hk => ?_⟩
  rw [BitVec.getLsbD_extractLsb', decide_eq_true hk, Bool.true_and, Nat.add_comm]

/-! ### The display control register (R141, R280, R281) -/

/-- Clearing bit 7 disables the display (R141). -/
theorem writeLcdc_of_disable {val : Byte} {s : State} (hs : s.lcdc.getLsbD 7 = true) (hv : val.getLsbD 7 = false) :
    writeLcdc val s = displayDisable { s with lcdc := val } := by
  rw [writeLcdc, displayOn_eq, hs, hv]
  rfl

/-- Setting bit 7 enables the display (R141). -/
theorem writeLcdc_of_enable {val : Byte} {s : State} (hs : s.lcdc.getLsbD 7 = false) (hv : val.getLsbD 7 = true) :
    writeLcdc val s = displayEnable { s with lcdc := val } := by
  rw [writeLcdc, displayOn_eq, hs, hv]
  rfl

/-- A write to `LCDC` has its effect in both variants. -/
theorem exec_wrLcdc (val : Byte) (s : State) :
    exec (.wrLcdc val) s = .next { writeLcdc val s with result := .nothing } :=
  exec_wrInstr_common (r := .lcdc) (fun _ => rfl) val s

/-- Settles O6: the three things a write to `LCDC` can do, by what happens to bit 7. -/
theorem displayControlWriteRunsItsSequence : Obligations.DisplayControlWriteRunsItsSequence := by
  intro s val
  rw [exec_wrLcdc]
  refine ⟨fun same => ?_, fun wasOn cleared => ?_, fun wasOff raised => ?_⟩
  · rw [writeLcdc_of_bit7_eq same.symm]
  · refine ⟨FrameBuffer.fill (fillColor s), fun k hk => entry_fill _ hk, ?_⟩
    rw [writeLcdc_of_disable wasOn cleared]
    rfl
  · rw [writeLcdc_of_enable wasOff raised]
    rfl

end Sys2Proof.Machine

/-! ## The palette (41_palette.md) -/

namespace Sys2Proof.Machine

/-! ### The registers of one variant (30_encoding.md R102) -/

/-- A register the variant has is read from the block. -/
theorem exec_rdInstr_inVariant {r : Reg} {v : Variant} {s : State} (hs : s.cfg.variant = v) (hr : r.inVariant v = true) :
    exec (rdInstr r) s = .next { s with result := .byte (regRead r s) } := by
  rw [exec_rdInstr, busRead_accepted (hs ▸ hr)]

/-- A write to a register the variant has takes the block's own effect. -/
theorem exec_wrInstr_inVariant {r : Reg} {v : Variant} {s : State} (hs : s.cfg.variant = v) (hr : r.inVariant v = true)
    (val : Byte) : exec (wrInstr val r) s = .next { writeEffect r val s with result := .nothing } := by
  rw [exec_wrInstr, busWrite_accepted _ _ (hs ▸ hr)]

/-- Settles O7: MONO has the three registers; each reads as `0xFF`, and the effect of a write is none. -/
theorem fixedPaletteRegionIsReadOnly : Obligations.FixedPaletteRegionIsReadOnly := fun _ val mono =>
  ⟨exec_rdInstr_inVariant (r := .bgp) mono rfl, exec_wrInstr_inVariant (r := .bgp) mono rfl val,
   exec_rdInstr_inVariant (r := .obp0) mono rfl, exec_wrInstr_inVariant (r := .obp0) mono rfl val,
   exec_rdInstr_inVariant (r := .obp1) mono rfl, exec_wrInstr_inVariant (r := .obp1) mono rfl val⟩

/-! ### The index ports (R204, R205, R208, R209) -/

/-- Settles O8: COLOR has the two registers; the read sets bit 6 and the effect of a write drops it. -/
theorem paletteIndexPortsDropBitSix : Obligations.PaletteIndexPortsDropBitSix := fun _ val color =>
  ⟨exec_rdInstr_inVariant (r := .bcps) color rfl, exec_wrInstr_inVariant (r := .bcps) color rfl val,
   exec_rdInstr_inVariant (r := .ocps) color rfl, exec_wrInstr_inVariant (r := .ocps) color rfl val⟩

/-- Bits 5:0 of a port are its index (30_encoding.md R115). -/
theorem portIndex_val (port : Byte) : (portIndex port).val = port.toNat % 64 := by
  simp [portIndex]

/-- With bit 7 clear the port stays (R207, R210). -/
theorem portAdvance_of_clear {port : Byte} (h : port.getLsbD 7 = false) : portAdvance port = port := by
  rw [portAdvance, h, if_neg Bool.false_ne_true]

/-- With bit 7 set the two upper bits are kept and the index advances in its own six bits (R207, R210). -/
theorem portAdvance_of_set {port : Byte} (h : port.getLsbD 7 = true) :
    portAdvance port = port.extractLsb' 6 2 ++ (port.extractLsb' 0 6 + 1#6) := by
  rw [portAdvance, if_pos h]
  generalize port.extractLsb' 0 6 + 1#6 = index
  refine BitVec.eq_of_getLsbD_eq fun k hk => ?_
  rw [BitVec.getLsbD_append]
  interval_cases k <;> simp

/-- A word put together from two parts, as a number. -/
theorem toNat_append_eq_add {m n : Nat} (x : BitVec m) (y : BitVec n) : (x ++ y).toNat = x.toNat * 2 ^ n + y.toNat := by
  rw [BitVec.toNat_append, ← Nat.shiftLeft_add_eq_or_of_lt y.isLt, Nat.shiftLeft_eq]

/-- The advanced port: bits 5:0 count mod 64 when bit 7 is set, and bits 7:6 are kept. -/
theorem portAdvance_fields (port : Byte) :
    (portAdvance port).toNat % 64 = (if port.getLsbD 7 then (port.toNat % 64 + 1) % 64 else port.toNat % 64) ∧
    (portAdvance port).toNat / 64 = port.toNat / 64 := by
  cases bit7 : port.getLsbD 7 with
  | false =>
    rw [portAdvance_of_clear bit7]
    exact ⟨rfl, rfl⟩
  | true =>
    have upper : (port.extractLsb' 6 2).toNat = port.toNat / 64 := by
      have port_lt : port.toNat < 256 := port.isLt
      rw [BitVec.extractLsb'_toNat, Nat.shiftRight_eq_div_pow]
      omega
    have index : (port.extractLsb' 0 6 + 1#6).toNat = (port.toNat % 64 + 1) % 64 := by
      rw [BitVec.toNat_add, BitVec.extractLsb'_toNat]
      rfl
    rw [portAdvance_of_set bit7, toNat_append_eq_add, upper, index, if_pos rfl]
    omega

/-! ### The data ports (R206, R207, R210, R217) -/

/-- The byte a data port reads stands at bits 5:0 of its index port. -/
theorem getElem?_portIndex (pal : Vector Byte 64) (port : Byte) :
    pal[port.toNat % 64]? = some pal[portIndex port] := by
  simp [← portIndex_val]

/-- A data port writes the byte at bits 5:0 of its index port and no other. -/
theorem getElem?_set_portIndex (pal : Vector Byte 64) (port val : Byte) (k : Nat) :
    (pal.set (portIndex port) val)[k]? = if k = port.toNat % 64 then some val else pal[k]? := by
  rw [Vector.getElem?_set, portIndex_val]
  simp only [eq_comm]

/-- Settles O9: COLOR has the two registers, and each reads the byte at its index. -/
theorem paletteDataReadsDoNotAdvance : Obligations.PaletteDataReadsDoNotAdvance := fun s color =>
  ⟨⟨_, getElem?_portIndex s.bgpal s.bcps, exec_rdInstr_inVariant (r := .bcpd) color rfl⟩,
   ⟨_, getElem?_portIndex s.obpal s.ocps, exec_rdInstr_inVariant (r := .ocpd) color rfl⟩⟩

/-- Settles O10: COLOR has the two registers; the effect of each sets one byte of its palette memory and advances its port. -/
theorem paletteDataWritesAdvanceConditionally : Obligations.PaletteDataWritesAdvanceConditionally := fun s val color =>
  ⟨⟨_, _, exec_wrInstr_inVariant (r := .bcpd) color rfl val, fun k _ => getElem?_set_portIndex s.bgpal s.bcps val k,
    portAdvance_fields s.bcps⟩,
   ⟨_, _, exec_wrInstr_inVariant (r := .ocpd) color rfl val, fun k _ => getElem?_set_portIndex s.obpal s.ocps val k,
    portAdvance_fields s.ocps⟩⟩

/-! ### The lookup (R201, R202) -/

theorem resolve_color_bg {s : State} (h : s.cfg.variant = .color) (i : PixelIndex) (p : PaletteSelector) :
    resolve s i p .bg = paletteColor s.bgpal i p := by
  simp only [resolve, h]

theorem resolve_color_obj {s : State} (h : s.cfg.variant = .color) (i : PixelIndex) (p : PaletteSelector) :
    resolve s i p .obj = paletteColor s.obpal i p := by
  simp only [resolve, h]

theorem resolve_mono {s : State} (h : s.cfg.variant = .mono) (i : PixelIndex) (p : PaletteSelector) (layer : Layer) :
    resolve s i p layer = s.cfg.shade[i.toFin] := by
  simp only [resolve, h]

/-- A layer's colour depends on the parameters and on the layer's own palette memory. -/
theorem resolve_bg_congr {s t : State} {i : PixelIndex} {p : PaletteSelector} (hc : t.cfg = s.cfg)
    (h : paletteColor t.bgpal i p = paletteColor s.bgpal i p) : resolve t i p .bg = resolve s i p .bg := by
  simp only [resolve, hc, h]

theorem resolve_obj_congr {s t : State} {i : PixelIndex} {p : PaletteSelector} (hc : t.cfg = s.cfg)
    (h : paletteColor t.obpal i p = paletteColor s.obpal i p) : resolve t i p .obj = resolve s i p .obj := by
  simp only [resolve, hc, h]

/-- The word of two bytes, low byte first: below bit 8 the low byte, from bit 8 the high one (30_encoding.md R120). -/
theorem colorWord_eq_append (lo hi : Byte) : lo.zeroExtend 16 ||| (hi.zeroExtend 16 <<< 8) = hi ++ lo := by
  refine BitVec.eq_of_getLsbD_eq fun k hk => ?_
  rw [BitVec.getLsbD_append]
  by_cases low : k < 8
  · simp [low, hk]
  · simp [low, hk, BitVec.getLsbD_of_ge lo k (Nat.not_lt.mp low)]

/-- A colour is the word's low 15 bits (R201). -/
theorem color_toNat (lo hi : Byte) :
    ((lo.zeroExtend 16 ||| (hi.zeroExtend 16 <<< 8)).truncate 15).toNat = (lo.toNat + 256 * hi.toNat) % 32768 := by
  rw [colorWord_eq_append, BitVec.truncate, BitVec.toNat_setWidth, toNat_append_eq_add]
  omega

/-- Where a colour stands in its palette memory, and what it is (R201). -/
theorem paletteColor_bytes (pal : Vector Byte 64) (i : PixelIndex) (p : PaletteSelector) :
    ∃ lo hi : Byte, pal[8 * p.toNat + 2 * i.toNat]? = some lo ∧ pal[8 * p.toNat + 2 * i.toNat + 1]? = some hi ∧
      (paletteColor pal i p).toNat = (lo.toNat + 256 * hi.toNat) % 32768 :=
  ⟨_, _, Vector.getElem?_eq_getElem _, Vector.getElem?_eq_getElem _, color_toNat _ _⟩

/-- Settles O12: in COLOR the layer's palette memory is looked up, in MONO the shade. -/
theorem resolveLooksUpTheColour : Obligations.ResolveLooksUpTheColour := by
  refine fun s i p => ⟨fun color => ?_, fun mono layer => ?_⟩
  · rw [resolve_color_bg color, resolve_color_obj color]
    exact ⟨paletteColor_bytes s.bgpal i p, paletteColor_bytes s.obpal i p⟩
  · rw [resolve_mono mono]
    exact Vector.getElem?_eq_getElem i.isLt

/-! ### The round trip (R218) -/

/-- An index below 64 is stored as it is (R205, R209). -/
theorem dropBit6_of_lt {port : Byte} (h : port.toNat < 64) : port &&& 0xBF#8 = port := by
  have bit6 : port[6] = false := Nat.testBit_lt_two_pow h
  refine BitVec.eq_of_getElem_eq fun k hk => ?_
  interval_cases k <;> simp [bit6]

/-- An index below 64 has bit 7 clear, so it does not advance. -/
theorem portAdvance_of_lt {port : Byte} (h : port.toNat < 64) : portAdvance port = port :=
  portAdvance_of_clear (Nat.testBit_lt_two_pow (Nat.lt_trans h (by decide)))

/-- Every byte other than the one at the index is kept. -/
theorem getElem?_set_portIndex_other (pal : Vector Byte 64) {port : Byte} (hp : port.toNat < 64) (val : Byte) {j : Nat}
    (hj : j ≠ port.toNat) : (pal.set (portIndex port) val)[j]? = pal[j]? := by
  rw [getElem?_set_portIndex, Nat.mod_eq_of_lt hp, if_neg hj]

/-- A byte belongs to one colour, so a write to it changes no other. -/
theorem paletteColor_set_other (pal : Vector Byte 64) {port : Byte} (hp : port.toNat < 64) (val : Byte) {i : PixelIndex}
    {p : PaletteSelector} (h : ¬ (p.toNat = port.toNat / 8 ∧ i.toNat = port.toNat / 2 % 4)) :
    paletteColor (pal.set (portIndex port) val) i p = paletteColor pal i p := by
  have index_lt : i.toNat < 4 := i.isLt
  have not_low : (portIndex port).val ≠ 8 * p.toNat + 2 * i.toNat := by rw [portIndex_val]; omega
  have not_high : (portIndex port).val ≠ 8 * p.toNat + 2 * i.toNat + 1 := by rw [portIndex_val]; omega
  simp only [paletteColor, Vector.getElem_set_ne _ _ not_low, Vector.getElem_set_ne _ _ not_high]

/-- A data port reads the byte just written at its index. -/
theorem getElem_set_portIndex_same (pal : Vector Byte 64) (port val : Byte) :
    (pal.set (portIndex port) val)[portIndex port] = val :=
  Vector.getElem_set_self _

section RoundTrip

/-! The six transactions of the two round trips in COLOR, for an index below 64: each write stores its byte and nothing more. -/

variable {s : State} {val : Byte} (color : s.cfg.variant = .color)
include color

theorem exec_wrBcps_of_lt {k : Byte} (hk : k.toNat < 64) :
    exec (.wrBcps k) s = .next { s with bcps := k, result := .nothing } := by
  have stored := exec_wrInstr_inVariant (r := .bcps) color rfl k
  rwa [writeEffect, dropBit6_of_lt hk] at stored

theorem exec_wrOcps_of_lt {k : Byte} (hk : k.toNat < 64) :
    exec (.wrOcps k) s = .next { s with ocps := k, result := .nothing } := by
  have stored := exec_wrInstr_inVariant (r := .ocps) color rfl k
  rwa [writeEffect, dropBit6_of_lt hk] at stored

theorem exec_wrBcpd_of_lt (hk : s.bcps.toNat < 64) :
    exec (.wrBcpd val) s = .next { s with bgpal := s.bgpal.set (portIndex s.bcps) val, result := .nothing } := by
  have stored := exec_wrInstr_inVariant (r := .bcpd) color rfl val
  rwa [writeEffect, portAdvance_of_lt hk] at stored

theorem exec_wrOcpd_of_lt (hk : s.ocps.toNat < 64) :
    exec (.wrOcpd val) s = .next { s with obpal := s.obpal.set (portIndex s.ocps) val, result := .nothing } := by
  have stored := exec_wrInstr_inVariant (r := .ocpd) color rfl val
  rwa [writeEffect, portAdvance_of_lt hk] at stored

theorem exec_rdBcpd_of_eq (h : s.bgpal[portIndex s.bcps] = val) :
    exec .rdBcpd s = .next { s with result := .byte val } :=
  h ▸ exec_rdInstr_inVariant (r := .bcpd) color rfl

theorem exec_rdOcpd_of_eq (h : s.obpal[portIndex s.ocps] = val) :
    exec .rdOcpd s = .next { s with result := .byte val } :=
  h ▸ exec_rdInstr_inVariant (r := .ocpd) color rfl

end RoundTrip

/-- Settles O11: neither write does more than store its byte, the data port then reads it at its index, and that byte belongs
to one colour of one layer. -/
theorem paletteRoundTripDoesNotAlias : Obligations.PaletteRoundTripDoesNotAlias := fun s k val color hk =>
  ⟨⟨_, _, exec_wrBcps_of_lt color hk, exec_wrBcpd_of_lt color hk,
    exec_rdBcpd_of_eq color (getElem_set_portIndex_same s.bgpal k val), rfl,
    fun _ _ => getElem?_set_portIndex_other s.bgpal hk val,
    fun _ _ other => resolve_bg_congr rfl (paletteColor_set_other s.bgpal hk val other), fun _ _ => rfl⟩,
   ⟨_, _, exec_wrOcps_of_lt color hk, exec_wrOcpd_of_lt color hk,
    exec_rdOcpd_of_eq color (getElem_set_portIndex_same s.obpal k val), rfl,
    fun _ _ => getElem?_set_portIndex_other s.obpal hk val,
    fun _ _ other => resolve_obj_congr rfl (paletteColor_set_other s.obpal hk val other), fun _ _ => rfl⟩⟩

end Sys2Proof.Machine

/-! ## The row bitmap of a sprite (42_sprite_attributes.md R224, R226) -/

namespace Sys2Proof.Machine

/-- On a line the sprite spans, its row is R226's difference, and neither form of it is negative. -/
theorem spriteRow_eq {sp : Sprite} {h : SpriteHeight} {ly : Nat} (on : sp.onLine h ly = true) :
    (spriteRow sp h ly : Int) = if sp.vflip then h.lines - 1 - (ly - sp.y) else ly - sp.y := by
  simp only [Sprite.onLine, Bool.and_eq_true, decide_eq_true_eq] at on
  unfold spriteRow
  split <;> omega

/-- Clearing bit 0 rounds down to the even tile. -/
theorem dropBit0_toNat (b : Byte) : (b &&& 0xFE#8).toNat = b.toNat / 2 * 2 := by
  have shifts : b &&& 0xFE#8 = (b >>> 1) <<< 1 := by
    refine BitVec.eq_of_getElem_eq fun k hk => ?_
    interval_cases k <;> simp
  have byte := b.isLt
  rw [shifts, BitVec.toNat_shiftLeft, BitVec.toNat_ushiftRight]
  omega

/-- The tile of a row, by the height in lines. -/
theorem spriteTile_eq (sp : Sprite) (h : SpriteHeight) (row : Nat) :
    spriteTile sp h row = if h.lines = 16 then sp.tile.toNat / 2 * 2 + row / 8 else sp.tile.toNat := by
  cases h with
  | h8 => rfl
  | h16 => exact congrArg (· + row / 8) (dropBit0_toNat sp.tile)

/-- A row of the sprite lies in one of the 256 tiles an unsigned index reaches. -/
theorem spriteTile_lt {sp : Sprite} {h : SpriteHeight} {row : Nat} (hr : (row : Int) < h.lines) :
    spriteTile sp h row < 256 := by
  have byte := sp.tile.isLt
  rw [spriteTile_eq]
  split <;> omega

/-- Bank 1 is COLOR's alone (R224). -/
theorem bank_eq (sp : Sprite) (v : Variant) : sp.bank v = (decide (v = .color) && sp.flags.getLsbD 3) := by
  cases v <;> rfl

/-- Settles O36: the row and the tile it states are `spriteRow` and `spriteTile`, so the two bytes are those of
`spriteRowAddr`. -/
theorem spriteRowComesFromTheUnsignedTable : Obligations.SpriteRowComesFromTheUnsignedTable := by
  intro s sp h row tile on height rowIs tileIs
  have lines : (h : Int) = s.sprH.lines := by
    rw [height]
    cases s.sprH <;> rfl
  obtain rfl : row = spriteRow sp s.sprH s.ly.val := by
    rw [lines] at rowIs
    exact Int.ofNat_inj.mp (rowIs.trans (spriteRow_eq on).symm)
  obtain rfl : tile = spriteTile sp s.sprH (spriteRow sp s.sprH s.ly.val) := by
    rw [tileIs, spriteTile_eq, ← lines]
    norm_cast
  have inSprite := spriteRow_lt on
  have inTable := spriteTile_lt (sp := sp) inSprite
  refine ⟨by omega, by omega, ?_⟩
  rw [← bank_eq]
  rfl

end Sys2Proof.Machine

/-! ## The transfer of a page to sprite attribute memory (43_dma.md) -/

namespace Sys2Proof.Machine

/-- Settles O13: both variants have the register, and it reads as its sentinel. -/
theorem dmaReadAnswersTheSentinel : Obligations.DmaReadAnswersTheSentinel :=
  exec_rdInstr_common (r := .dma) (fun _ => rfl)

/-- No register's read depends on the page last written (R240). -/
theorem regRead_setDma (r : Reg) (page : Byte) (s : State) : regRead r { s with dma := page } = regRead r s := by
  cases r <;> rfl

/-- The bus answers the same whatever page was last written. -/
theorem memRead_setDma (page : Byte) (s : State) (a : Nat) : memRead { s with dma := page } a = memRead s a :=
  memRead_congr rfl (regRead_setDma · page s) fun _ => rfl

/-- Outside the bytes a copy has written, the bus answers as before the copy. -/
theorem memRead_copyBytes_outside {src dst len : Nat} {s : State} {a : Nat} (hd : dst + len ≤ 65536)
    (ha : a % 65536 < dst ∨ dst + len ≤ a % 65536) : memRead (copyBytes src dst len s) a = memRead s a :=
  memRead_congr (copyBytes_cfg src dst len s) (regRead_copyBytes · src dst len s) fun _ => copyBytes_read_outside hd ha

/-- A page starts at a multiple of 256, so the transfer reads byte `i` before it writes there, if it does at all: of the pages
only `0xFE` meets the destination, and each of its bytes is its own destination. -/
theorem dmaTransfer_read_inside (val : Byte) (s : State) {i : Nat} (hi : i < 160) :
    (dmaTransfer val s).mem.read (0xFE00 + i) = memRead s (val.toNat * 256 + i) := by
  have page_lt : val.toNat < 256 := val.isLt
  have not_yet_written : (val.toNat * 256 + i) % 65536 < 0xFE00 ∨ 0xFE00 + i ≤ (val.toNat * 256 + i) % 65536 := by omega
  rw [dmaTransfer, copyBytes_read_inside (by decide) hi, memRead_copyBytes_outside (by omega) not_yet_written,
    memRead_setDma]

/-- The transfer keeps every byte outside sprite attribute memory. -/
theorem dmaTransfer_read_outside (val : Byte) (s : State) {a : Nat} (ha : a < 0xFE00 ∨ 0xFE9F < a) :
    (dmaTransfer val s).mem.read a = s.mem.read a :=
  copyBytes_read_outside (by decide) ha

/-- Settles O14: both variants have the register, and its effect is the transfer, which changes the page and memory only. -/
theorem dmaCopiesOnePageToOam : Obligations.DmaCopiesOnePageToOam := by
  refine fun s val => ⟨(dmaTransfer val s).mem, ?_, fun _ => dmaTransfer_read_inside val s,
    fun _ => dmaTransfer_read_outside val s⟩
  have stored := exec_wrInstr_common (r := .dma) (fun _ => rfl) val s
  rwa [writeEffect, dmaTransfer_frame] at stored

end Sys2Proof.Machine

/-! ## The HDMA transfer of COLOR (44_hdma.md) -/

namespace Sys2Proof.Machine

/-- Settles O15: COLOR has the five registers; each reads as its cell, and the effect of a write to one of the first four is a
store. -/
theorem hdmaCellsStoreTheByte : Obligations.HdmaCellsStoreTheByte := fun _ val color =>
  ⟨exec_rdInstr_inVariant (r := .hdma1) color rfl, exec_wrInstr_inVariant (r := .hdma1) color rfl val,
   exec_rdInstr_inVariant (r := .hdma2) color rfl, exec_wrInstr_inVariant (r := .hdma2) color rfl val,
   exec_rdInstr_inVariant (r := .hdma3) color rfl, exec_wrInstr_inVariant (r := .hdma3) color rfl val,
   exec_rdInstr_inVariant (r := .hdma4) color rfl, exec_wrInstr_inVariant (r := .hdma4) color rfl val,
   exec_rdInstr_inVariant (r := .hdma5) color rfl⟩

/-! ### The operands (R252), as numbers -/

/-- Masking off the low nibble rounds down to a multiple of 16. -/
theorem dropNibble_toNat (x : BitVec 16) : (x &&& 0xFFF0#16).toNat = x.toNat / 16 * 16 := by
  have parts : x &&& 0xFFF0#16 = x.extractLsb' 4 12 ++ 0#4 := by
    refine BitVec.eq_of_getLsbD_eq fun k hk => ?_
    rw [BitVec.getLsbD_append]
    interval_cases k <;> simp
  have word := x.isLt
  rw [parts, toNat_append_eq_add, BitVec.extractLsb'_toNat, Nat.shiftRight_eq_div_pow, BitVec.toNat_zero]
  omega

theorem hdmaSrc_eq (s : State) : hdmaSrc s = (s.hdma1.toNat * 256 + s.hdma2.toNat) / 16 * 16 := by
  rw [hdmaSrc, dropNibble_toNat, toNat_append_eq_add]
  rfl

/-- The 13 bits kept lie below the base `0x8000`, so setting its bit adds it. -/
theorem hdmaDst_eq (s : State) : hdmaDst s = 0x8000 + (s.hdma3.toNat * 256 + s.hdma4.toNat) % 8192 := by
  have offset : (s.hdma3 ++ s.hdma4).toNat &&& 0x1FFF = (s.hdma3.toNat * 256 + s.hdma4.toNat) % 8192 := by
    rw [toNat_append_eq_add]
    exact Nat.and_two_pow_sub_one_eq_mod _ 13
  rw [hdmaDst, BitVec.toNat_or, BitVec.toNat_and]
  exact (congrArg (0x8000 ||| ·) offset).trans (Nat.two_pow_add_eq_or_of_lt (i := 15) (by omega) 1).symm

theorem hdmaLen_eq (val : Byte) : hdmaLen val = (val.toNat % 128 + 1) * 16 := by
  rw [hdmaLen, BitVec.toNat_and]
  exact congrArg (fun n => (n + 1) * 16) (Nat.and_two_pow_sub_one_eq_mod val.toNat 7)

/-- The destination lies in video memory and above, below sprite attribute memory and the registers. -/
theorem hdmaDst_add_hdmaLen_le (val : Byte) (s : State) : hdmaDst s + hdmaLen val ≤ 0xA7FF := by
  rw [hdmaDst_eq, hdmaLen_eq]
  omega

/-! ### The copy (R252) -/

/-- A byte whose source is a byte already written is that byte: the copy writes none twice. -/
theorem copyBytes_read_written {src dst len : Nat} {s : State} {i : Nat} (hd : dst + len ≤ 0xFF40) (hi : i < len)
    (ha : dst ≤ (src + i) % 65536 ∧ (src + i) % 65536 < dst + i) :
    (copyBytes src dst len s).mem.read (dst + i) = (copyBytes src dst len s).mem.read ((src + i) % 65536) := by
  obtain ⟨j, source⟩ : ∃ j, (src + i) % 65536 = dst + j := Nat.exists_eq_add_of_le ha.1
  have earlier : j < i := by omega
  calc (copyBytes src dst len s).mem.read (dst + i)
    _ = memRead (copyBytes src dst i s) (dst + j) := by
        rw [copyBytes_read_inside (by omega) hi, ← memRead_mod, source]
    _ = memRead (copyBytes src dst j s) (src + j) := by
        rw [memRead_low (by omega), copyBytes_read_inside (by omega) earlier]
    _ = (copyBytes src dst len s).mem.read ((src + i) % 65536) := by
        rw [source, copyBytes_read_inside (by omega) (by omega)]

/-- Below the registers, byte `i` of a copy is the earlier byte of the copy its source names, or else what the bus answered
before the copy. -/
theorem copyBytes_read_eq {src dst len : Nat} {s : State} {i : Nat} (hd : dst + len ≤ 0xFF40) (hi : i < len) :
    (copyBytes src dst len s).mem.read (dst + i) =
      if dst ≤ (src + i) % 65536 ∧ (src + i) % 65536 < dst + i
      then (copyBytes src dst len s).mem.read ((src + i) % 65536)
      else memRead s ((src + i) % 65536) := by
  split
  case isTrue written => exact copyBytes_read_written hd hi written
  case isFalse unwritten =>
    rw [copyBytes_read_inside (by omega) hi, memRead_copyBytes_outside (by omega) (by omega), memRead_mod]

/-- The transfer's memory is that of the copy run with the value in place (R254). -/
theorem hdmaTransfer_mem (val : Byte) (s : State) :
    (hdmaTransfer val s).mem =
      (copyBytes (hdmaSrc s) (hdmaDst s) (hdmaLen val) { s with hdma5 := val }).mem := rfl

/-- Settles O16: COLOR has the register, and its effect is the transfer, a copy that ends below the registers. -/
theorem hdmaCopiesAscendingBytes : Obligations.HdmaCopiesAscendingBytes := by
  intro s val src dst len color srcIs dstIs lenIs
  rw [← hdmaSrc_eq] at srcIs
  rw [← hdmaDst_eq] at dstIs
  rw [← hdmaLen_eq] at lenIs
  have inVideo := hdmaDst_add_hdmaLen_le val s
  subst srcIs dstIs lenIs
  refine ⟨(hdmaTransfer val s).mem, ?_, fun i hi => ?_, fun a ha => ?_⟩
  · have stored := exec_wrInstr_inVariant (r := .hdma5) color rfl val
    rwa [writeEffect, hdmaTransfer_frame] at stored
  · rw [hdmaTransfer_mem]
    exact copyBytes_read_eq (by omega) hi
  · rw [hdmaTransfer_mem]
    exact copyBytes_read_outside (by omega) ha

end Sys2Proof.Machine

/-! ## The transitions (45_mode_state_machine.md R267 to R275) -/

namespace Sys2Proof.Machine

/-- Settles O26: a cycle is a count while some is left, and a transition once it is spent. -/
theorem cycleCountsDown : Obligations.CycleCountsDown := fun _ => ⟨cycle_counting, cycle_spent⟩

/-! ### The end of OamSearch (R269, R221) -/

/-- The scan stopped at ten is the filtered table cut at ten. -/
theorem scanOam_eq (s : State) (l : List Nat) {found : List Sprite} (h : found.length ≤ 10) :
    scanOam s l found =
      (found ++ (l.map (oamEntry s)).filter (fun sp => sp.onLine (spriteHeight s) s.ly.val)).take 10 := by
  induction l generalizing found with
  | nil => simp [scanOam, List.take_of_length_le h]
  | cons i rest ih =>
    rw [scanOam]
    split
    case isTrue room =>
      split
      case isTrue on => rw [ih (by simpa using room)]; simp [on]
      case isFalse off => rw [ih h]; simp [off]
    case isFalse full =>
      have ten : found.length = 10 := by omega
      rw [← ten, List.take_left]

theorem scanOam_table (s : State) (l : List Nat) :
    scanOam s l [] = ((l.map (oamEntry s)).filter (fun sp => sp.onLine (spriteHeight s) s.ly.val)).take 10 :=
  scanOam_eq s l (Nat.zero_le 10)

theorem spriteHeight_lines (s : State) : (spriteHeight s).lines = if s.lcdc.getLsbD 2 then 16 else 8 := by
  unfold spriteHeight
  split <;> rfl

theorem onLine_eq (sp : Sprite) (h : SpriteHeight) (ly : Nat) :
    sp.onLine h ly = decide (sp.y ≤ (ly : Int) ∧ (ly : Int) < sp.y + h.lines) := (Bool.decide_and ..).symm

/-- Settles O27: the scan from an empty list is the filtered table cut at ten, and the table's entries are as R221 reads them. -/
theorem oamSearchEndsInDiscovery : Obligations.OamSearchEndsInDiscovery := by
  intro s h table search height entries
  subst height entries
  rw [transition_oamSearch search, scanOam_table]
  simp only [onLine_eq, spriteHeight_lines]
  rfl

/-! ### The end of PixelTransfer (R270, R300) -/

/-- Settles O28: composition replaces row `ly` of the frame buffer. -/
theorem pixelTransferEndsInComposition : Obligations.PixelTransferEndsInComposition := by
  intro s drawing visible
  exact ⟨_, transition_pixelTransfer drawing, fun _ hp => entry_setRow_same _ _ (by omega) hp,
    fun _ hk => entry_setRow_other _ _ hk⟩

/-! ### The line boundary (R271 to R275) -/

theorem nextLine_val (l : Fin 154) : (l + 1).val = (l.val + 1) % 154 := Fin.val_add l 1

/-- Settles O29: the next line lies at, above or below the start of vertical blank. -/
theorem lineBoundaryStartsTheNextLine : Obligations.LineBoundaryStartsTheNextLine := by
  intro s l compare boundary next events
  obtain rfl : l = s.ly + 1 := Fin.ext (next.trans (nextLine_val s.ly).symm)
  have compared : compare = compareEvents s := by simp [events, compareEvents]
  rw [compared, transition_boundary boundary]
  exact ⟨lineBoundary_vblank, lineBoundary_visible, lineBoundary_blank⟩

end Sys2Proof.Machine

/-! ## The tick (45_mode_state_machine.md R266, R268) -/

namespace Sys2Proof.Machine

/-! ### The transaction -/

theorem exec_tick_off {s : State} (off : s.lcdc.getLsbD 7 = false) (n : Nat) :
    exec (.tick n) s = .next (s.answer (.consumed false)) :=
  if_neg (by rw [displayOn_eq, off]; decide)

theorem exec_tick_on {s : State} (on : s.lcdc.getLsbD 7 = true) (n : Nat) :
    exec (.tick n) s = .next ((cycles n s).answer (.consumed true)) :=
  if_pos on

/-- What a tick that ends in `t` has done. -/
theorem eq_of_exec_tick {s t : State} {n : Nat} (on : s.lcdc.getLsbD 7 = true) (h : exec (.tick n) s = .next t) :
    t = (cycles n s).answer (.consumed true) := by
  simpa [exec_tick_on on] using h.symm

theorem cycles_eq_iterate (n : Nat) (s : State) : cycles n s = cycle^[n] s := by
  induction n generalizing s with
  | zero => rfl
  | succ n ih => exact ih (cycle s)

/-- Settles O25: the display decides whether the cycles run, and running them is iterating one. -/
theorem tickRunsItsCycles : Obligations.TickRunsItsCycles := by
  refine fun s n => ⟨fun off => exec_tick_off off n, fun on => ?_⟩
  rw [← cycles_eq_iterate]
  exact exec_tick_on on n

/-! ### Two ticks -/

/-- A transition neither reads nor writes the last answer. -/
theorem transition_answer (r : Answer) (s : State) : transition (s.answer r) = (transition s).answer r := by
  rcases transition_cases s with ⟨hm, e⟩ | ⟨hm, e⟩ | ⟨hm, hl, e⟩ | ⟨hm, hl, e⟩ | ⟨hm, hl, e⟩ <;> rw [e]
  · rw [transition_oamSearch (s := s.answer r) hm, scanOam_table, scanOam_table]
    rfl
  · exact transition_pixelTransfer (s := s.answer r) hm
  · exact (transition_boundary (s := s.answer r) hm).trans (lineBoundary_vblank hl)
  · exact (transition_boundary (s := s.answer r) hm).trans (lineBoundary_visible hl)
  · exact (transition_boundary (s := s.answer r) hm).trans (lineBoundary_blank hl)

theorem cycle_answer (r : Answer) (s : State) : cycle (s.answer r) = (cycle s).answer r := by
  by_cases left : 1 < s.cd
  · rw [cycle_counting left]
    exact cycle_counting left
  · rw [cycle_spent (s := s) (by omega), ← transition_answer]
    exact cycle_spent (s := s.answer r) (Int.not_lt.mp left)

theorem cycles_answer (n : Nat) (r : Answer) (s : State) : cycles n (s.answer r) = (cycles n s).answer r := by
  induction n generalizing s with
  | zero => rfl
  | succ n ih => rw [cycles_succ, cycle_answer, ih, cycles_succ]

/-- Settles O30: the second run of cycles starts where the first ended, but for the answer, which no cycle looks at. -/
theorem ticksAddUp : Obligations.TicksAddUp := by
  intro s t a b on first
  have still_on : t.lcdc.getLsbD 7 = true := by rw [eq_of_exec_tick on first, answer_lcdc, cycles_lcdc, on]
  rw [exec_tick_on still_on, exec_tick_on on, eq_of_exec_tick on first, cycles_answer, cycles_add]
  rfl

/-! ### The bulk form (R268) -/

theorem duration_ge (m : Mode) : 80 ≤ m.duration := by cases m <;> decide

/-- Every transition reloads the countdown with the duration of the mode it enters. -/
theorem transition_cd_eq (s : State) : (transition s).cd = s.cd + (transition s).mode.duration := by
  rcases transition_cases s with ⟨_, e⟩ | ⟨_, e⟩ | ⟨_, _, e⟩ | ⟨_, _, e⟩ | ⟨_, _, e⟩ <;> rw [e] <;> rfl

theorem transition_cd_pos {s : State} (h : 0 ≤ s.cd) : 1 ≤ (transition s).cd := by
  have reload := duration_ge (transition s).mode
  rw [transition_cd_eq]
  omega

theorem cycle_cd_pos {s : State} (h : 1 ≤ s.cd) : 1 ≤ (cycle s).cd := by
  by_cases left : 1 < s.cd
  · rw [cycle_counting left]
    simp only
    omega
  · rw [cycle_spent (by omega)]
    exact transition_cd_pos (Int.sub_nonneg_of_le h)

theorem cycles_cd_pos (n : Nat) {s : State} (h : 1 ≤ s.cd) : 1 ≤ (cycles n s).cd := by
  induction n generalizing s with
  | zero => exact h
  | succ n ih => exact ih (cycle_cd_pos h)

theorem settle_of_pos (fuel : Nat) {s : State} (h : 0 < s.cd) : settle fuel s = s := by
  cases fuel with
  | zero => rfl
  | succ fuel => rw [settle, if_neg (by omega)]

/-- The countdown taken all at once leaves the overshoot for the mode after the transition. -/
theorem transition_overshoot (s : State) (c : Int) :
    transition { s with cd := c } =
      { transition { s with cd := 0 } with cd := (transition { s with cd := 0 }).cd + c } := by
  rw [transition_cd s c, transition_cd s 0]
  simp only [State.mk.injEq, true_and, and_true]
  omega

/-- The cycles up to the spent countdown end in the first transition of the bulk form, the others are its overshoot. -/
theorem settle_eq_cycles {fuel n : Nat} {s : State} (hn : n ≤ fuel) (hc : 1 ≤ s.cd) :
    settle fuel { s with cd := s.cd - n } = cycles n s := by
  induction fuel generalizing n s with
  | zero =>
    obtain rfl : n = 0 := by omega
    rw [settle, cycles_counting (by omega)]
  | succ fuel ih =>
    by_cases counting : (n : Int) < s.cd
    · rw [cycles_counting counting, settle_of_pos _ (by simp only; omega)]
    · obtain ⟨c, hcd⟩ := Int.eq_ofNat_of_zero_le (show 0 ≤ s.cd by omega)
      obtain ⟨k, rfl⟩ : ∃ k, n = c + k := ⟨n - c, by omega⟩
      have reload : 1 ≤ (transition { s with cd := 0 }).cd := transition_cd_pos le_rfl
      have overshoot : s.cd - ((c + k : Nat) : Int) = -k := by omega
      calc settle (fuel + 1) { s with cd := s.cd - ((c + k : Nat) : Int) }
        _ = settle fuel (transition { s with cd := -k }) := by rw [overshoot]; exact if_pos (by simp only; omega)
        _ = cycles k (transition { s with cd := 0 }) := by rw [transition_overshoot]; exact ih (by omega) reload
        _ = cycles (c + k) s := by rw [cycles_add, cycles_spent hcd.symm (by omega)]

/-- Settles O31: the bulk form is the run of cycles, which keeps the countdown positive. -/
theorem tickHasABulkForm : Obligations.TickHasABulkForm := by
  intro s n on hc
  rw [settle_eq_cycles le_rfl hc]
  exact ⟨exec_tick_on on n, cycles_cd_pos n hc⟩

end Sys2Proof.Machine

/-! ## The position in the frame (45_mode_state_machine.md R276, R278) -/

namespace Sys2Proof.Machine

/-! ### The sequencer over a run of cycles -/

theorem cycles_sequencerInv (n : Nat) {s : State} (h : SequencerInv s) (on : s.displayOn = true) :
    SequencerInv (cycles n s) := by
  induction n generalizing s with
  | zero => exact h
  | succ n ih => exact ih (cycle_sequencerInv h on) (by rw [cycle_displayOn, on])

@[simp] theorem cycles_displayOn (n : Nat) (s : State) : (cycles n s).displayOn = s.displayOn := by
  rw [displayOn_eq, cycles_lcdc, displayOn_eq]

@[simp] theorem answer_lineOffset (r : Answer) (s : State) : (s.answer r).lineOffset = s.lineOffset := rfl

/-- A line is 456 cycles. -/
theorem lineOffset_range {s : State} (h : SequencerInv s) (on : s.displayOn = true) :
    0 ≤ s.lineOffset ∧ s.lineOffset < 456 := by
  obtain ⟨least, most⟩ := h.countdown on
  cases hm : s.mode <;> simp only [hm, Mode.duration, State.lineOffset] at most ⊢ <;> omega

/-- The cycles since the start of line 0: 154 lines of 456 cycles make a frame of 70224. -/
def State.framePosition (s : State) : Int := 456 * s.ly.val + s.lineOffset

theorem framePosition_range {s : State} (h : SequencerInv s) (on : s.displayOn = true) :
    0 ≤ s.framePosition ∧ s.framePosition < 70224 := by
  obtain ⟨least, most⟩ := lineOffset_range h on
  have line := s.ly.isLt
  unfold State.framePosition
  omega

/-- The position gives back the line and the offset into it. -/
theorem line_of_framePosition {s : State} (h : SequencerInv s) (on : s.displayOn = true) {l : Nat} {off : Int}
    (hoff : 0 ≤ off ∧ off < 456) (hp : s.framePosition = 456 * l + off) : s.ly.val = l ∧ s.lineOffset = off := by
  obtain ⟨least, most⟩ := lineOffset_range h on
  unfold State.framePosition at hp
  omega

/-- A transition is where one mode's last offset meets the next one's first. -/
theorem transition_framePosition {s : State} (hcd : s.cd = 0) :
    (transition s).framePosition = s.framePosition % 70224 := by
  have line := s.ly.isLt
  have next := nextLine_val s.ly
  rcases transition_cases s with ⟨hm, e⟩ | ⟨hm, e⟩ | ⟨hm | hm, _, e⟩ | ⟨hm | hm, _, e⟩ | ⟨hm | hm, _, e⟩ <;> rw [e] <;>
    simp only [State.framePosition, State.lineOffset, hm, hcd] <;> omega

/-- Every cycle is one step around the frame. -/
theorem cycle_framePosition {s : State} (h : SequencerInv s) (on : s.displayOn = true) :
    (cycle s).framePosition = (s.framePosition + 1) % 70224 := by
  have counted : ({ s with cd := s.cd - 1 } : State).framePosition = s.framePosition + 1 := by
    cases hm : s.mode <;> simp only [State.framePosition, State.lineOffset, hm] <;> omega
  by_cases left : 1 < s.cd
  · obtain ⟨_, below⟩ := framePosition_range (cycle_sequencerInv h on) (by rw [cycle_displayOn, on])
    obtain ⟨least, _⟩ := framePosition_range h on
    rw [cycle_counting left, counted] at below ⊢
    omega
  · obtain ⟨spent, _⟩ := h.countdown on
    rw [cycle_spent (by omega), transition_framePosition (by simp only; omega), counted]

theorem cycles_framePosition (n : Nat) {s : State} (h : SequencerInv s) (on : s.displayOn = true) :
    (cycles n s).framePosition = (s.framePosition + n) % 70224 := by
  induction n generalizing s with
  | zero =>
    have range := framePosition_range h on
    rw [cycles]
    omega
  | succ n ih =>
    rw [cycles_succ, ih (cycle_sequencerInv h on) (by rw [cycle_displayOn, on]), cycle_framePosition h on]
    omega

/-! ### The mode at a position -/

/-- Vertical blank falls on the lines below the visible ones. Only the line that `RESET` starts is off this schedule (R41
item 4). -/
def State.OnSchedule (s : State) : Prop := s.mode = .vblank → 144 ≤ s.ly.val

theorem transition_onSchedule (s : State) : (transition s).OnSchedule := by
  rcases transition_cases s with ⟨_, e⟩ | ⟨_, e⟩ | ⟨_, hl, e⟩ | ⟨_, _, e⟩ | ⟨_, hl, e⟩ <;> rw [e]
  · exact nofun
  · exact nofun
  · exact fun _ => hl.ge
  · exact nofun
  · exact fun _ => hl.le

theorem cycle_onSchedule {s : State} (h : s.OnSchedule) : (cycle s).OnSchedule := by
  by_cases left : 1 < s.cd
  · rw [cycle_counting left]
    exact h
  · rw [cycle_spent (by omega)]
    exact transition_onSchedule _

theorem cycles_onSchedule (n : Nat) {s : State} (h : s.OnSchedule) : (cycles n s).OnSchedule := by
  induction n generalizing s with
  | zero => exact h
  | succ n ih => exact ih (cycle_onSchedule h)

/-- No mode lasts longer than a line, so a line of cycles runs a transition. -/
theorem cycles_line_onSchedule {n : Nat} (hn : 456 ≤ n) {s : State} (h : SequencerInv s) (on : s.displayOn = true) :
    (cycles n s).OnSchedule := by
  obtain ⟨least, most⟩ := h.countdown on
  have short : s.mode.duration ≤ 456 := by cases s.mode <;> decide
  obtain ⟨c, hcd⟩ := Int.eq_ofNat_of_zero_le (show 0 ≤ s.cd by omega)
  obtain ⟨k, rfl⟩ : ∃ k, n = c + k := ⟨n - c, by omega⟩
  rw [cycles_add, cycles_spent hcd.symm (by omega)]
  exact cycles_onSchedule k (transition_onSchedule _)

theorem modeAt_blank {l : Nat} (off : Int) (hl : 144 ≤ l) : modeAt l off = .vblank := if_pos hl

theorem modeAt_oamSearch {l : Nat} {off : Int} (hl : l ≤ 143) (h : off < 80) : modeAt l off = .oamSearch := by
  rw [modeAt, if_neg (by omega), if_pos h]

theorem modeAt_pixelTransfer {l : Nat} {off : Int} (hl : l ≤ 143) (h : 80 ≤ off ∧ off < 252) :
    modeAt l off = .pixelTransfer := by
  rw [modeAt, if_neg (by omega), if_neg (by omega), if_pos h.2]

theorem modeAt_hblank {l : Nat} {off : Int} (hl : l ≤ 143) (h : 252 ≤ off) : modeAt l off = .hblank := by
  rw [modeAt, if_neg (by omega), if_neg (by omega), if_neg (by omega)]

/-- On schedule, the countdown of each mode keeps the offset inside the mode's part of the line. -/
theorem mode_eq_modeAt {s : State} (h : SequencerInv s) (on : s.displayOn = true) (timely : s.OnSchedule) :
    s.mode = modeAt s.ly.val s.lineOffset := by
  obtain ⟨least, most⟩ := h.countdown on
  cases hm : s.mode <;> simp only [hm, Mode.duration, State.lineOffset] at most ⊢
  case oamSearch => exact (modeAt_oamSearch (h.drawing (.inl hm)) (by omega)).symm
  case pixelTransfer => exact (modeAt_pixelTransfer (h.drawing (.inr hm)) (by omega)).symm
  case hblank =>
    have visible : ¬ 144 ≤ s.ly.val := fun blank => absurd (hm.symm.trans (h.blanking blank)) nofun
    exact (modeAt_hblank (by omega) (by omega)).symm
  case vblank => exact (modeAt_blank _ (timely hm)).symm

/-- Where a run of at least a line's cycles ends. -/
theorem cycles_lands {n : Nat} (hn : 456 ≤ n) {s : State} (h : SequencerInv s) (on : s.displayOn = true) {l : Nat}
    {off : Int} (hoff : 0 ≤ off ∧ off < 456) (hp : (s.framePosition + n) % 70224 = 456 * l + off) :
    (cycles n s).ly.val = l ∧ (cycles n s).lineOffset = off ∧ (cycles n s).mode = modeAt l off := by
  have inv := cycles_sequencerInv n h on
  have still_on : (cycles n s).displayOn = true := by rw [cycles_displayOn, on]
  obtain ⟨line, offset⟩ := line_of_framePosition inv still_on hoff ((cycles_framePosition n h on).trans hp)
  exact ⟨line, offset, line ▸ offset ▸ mode_eq_modeAt inv still_on (cycles_line_onSchedule hn h on)⟩

/-- Settles O32: both ticks together are a line's cycles, which land at the same offset one line further. -/
theorem fullLineKeepsTheOffset : Obligations.FullLineKeepsTheOffset := by
  intro s t u a b inv on split first second
  have range := lineOffset_range inv.sequencer on
  have both : exec (.tick 456) s = .next u := by rw [← split, ← ticksAddUp s t a b on first, second]
  obtain ⟨line, offset, mode⟩ := cycles_lands (n := 456) le_rfl inv.sequencer on (l := (s.ly.val + 1) % 154) range
    (by have := s.ly.isLt; unfold State.framePosition; omega)
  rw [eq_of_exec_tick on both, answer_lineOffset, answer_ly, answer_mode, line]
  exact ⟨range.1, range.2, offset, rfl, mode⟩

/-! ### The timeline (R278) -/

/-- Where `RESET` puts the sequencer (R370). -/
theorem resetBlock_sequencer (s : State) :
    (resetBlock s).mode = .vblank ∧ (resetBlock s).cd = 456 ∧ (resetBlock s).ly = 0 := ⟨rfl, rfl, rfl⟩

/-- Settles O34: `RESET` starts at position 0. Its first line is counted down; from line 1 on, a position gives line and mode. -/
theorem timelineFromReset : Obligations.TimelineFromReset := by
  intro s s0 u t reset on run
  obtain rfl : s0 = (resetBlock s).answer .nothing := by simpa [exec, execReset, done] using reset.symm
  obtain ⟨mode, cd, ly⟩ := resetBlock_sequencer s
  have start : ((resetBlock s).answer .nothing).framePosition = 0 := by
    simp [State.framePosition, State.lineOffset, mode, cd, ly]
  have inv : SequencerInv ((resetBlock s).answer .nothing) := .of_reset mode cd ly
  rw [eq_of_exec_tick on run, answer_mode, answer_ly]
  have lands {l : Nat} {off : Int} (later : 456 ≤ t) (hoff : 0 ≤ off ∧ off < 456)
      (hp : (t : Int) % 70224 = 456 * l + off) {m : Mode} (hm : modeAt l off = m) :
      (cycles t ((resetBlock s).answer .nothing)).mode = m ∧ (cycles t ((resetBlock s).answer .nothing)).ly.val = l := by
    obtain ⟨line, _, mode⟩ := cycles_lands later inv on hoff (by rw [start, Int.zero_add, hp])
    exact ⟨mode.trans hm, line⟩
  refine ⟨fun first => ?_, fun k _ visible lo hi => ?_, fun k _ visible lo hi => ?_, fun k _ visible lo hi => ?_,
    fun j blank lo hi => ?_, fun lo hi => ?_⟩
  · rw [cycles_counting (by rw [answer_cd, cd]; omega)]
    exact ⟨mode, by rw [answer_ly, ly]; rfl⟩
  · exact lands (off := t - 456 * k) (by omega) (by omega) (by omega) (modeAt_oamSearch visible (by omega))
  · exact lands (off := t - 456 * k) (by omega) (by omega) (by omega) (modeAt_pixelTransfer visible (by omega))
  · exact lands (off := t - 456 * k) (by omega) (by omega) (by omega) (modeAt_hblank visible (by omega))
  · exact lands (off := t - 456 * (144 + j)) (by omega) (by omega) (by omega) (modeAt_blank _ (by omega))
  · exact lands (off := t - 70224) (by omega) (by omega) (by omega) (modeAt_oamSearch (Nat.zero_le _) (by omega))

end Sys2Proof.Machine

/-! ## The vertical-blank interrupt (45_mode_state_machine.md R277) -/

namespace Sys2Proof.Machine

/-! ### The transactions that raise none (60_exceptions.md R342, R345) -/

/-- The only event the block's write effects emit is the frame of a display being disabled. -/
theorem writeEffect_irqs (r : Reg) (val : Byte) (s : State) :
    (writeEffect r val s).out.filter Event.isIrq = s.out.filter Event.isIrq := by
  cases r with
  | lcdc =>
    rw [writeEffect, writeLcdc_frame, List.filter_append]
    split <;> simp [Event.isIrq]
  | dma => rw [writeEffect, dmaTransfer_frame]
  | hdma5 => rw [writeEffect, hdmaTransfer_frame]
  | _ => rfl

theorem exec_irqs {i : Instr} {s t : State} (hi : ∀ n, i ≠ .tick n) (h : exec i s = .next t) :
    t.out.filter Event.isIrq = s.out.filter Event.isIrq := by
  rcases exec_next_cases h with ⟨r, b, _, rfl⟩ | ⟨r, v, _, _, rfl⟩ | ⟨r, v, _, _, rfl⟩ | ⟨n, rfl, _⟩ |
    ⟨n, rfl, _⟩ | ⟨_, rfl⟩
  · rfl
  · exact writeEffect_irqs r v s
  · rfl
  · exact absurd rfl (hi n)
  · exact absurd rfl (hi n)
  · rw [answer_out, resetBlock_out]

/-- Every `IRQ(VBLANK)` is an interrupt request. -/
theorem vblankCount_eq_irqs (s : State) : s.vblankCount = (s.out.filter Event.isIrq).countP (· == .irqVblank) := by
  rw [List.countP_filter, State.vblankCount]
  congr 1
  funext e
  cases e <;> rfl

/-! ### A cycle -/

@[simp] theorem answer_vblankCount (r : Answer) (s : State) : (s.answer r).vblankCount = s.vblankCount := rfl

/-- A conditional status interrupt is no `IRQ(VBLANK)`. -/
theorem countP_irqStat (c : Prop) [Decidable c] :
    (if c then [Event.irqStat] else []).countP (· == .irqVblank) = 0 := by split <;> rfl

/-- Of the transitions only the one into line 144 raises the interrupt. -/
theorem transition_vblankCount (s : State) :
    (transition s).vblankCount = s.vblankCount + if s.ly.val = 143 ∧ (transition s).ly.val = 144 then 1 else 0 := by
  have next := nextLine_val s.ly
  rcases transition_cases s with ⟨_, e⟩ | ⟨_, e⟩ | ⟨_, hl, e⟩ | ⟨_, hl, e⟩ | ⟨_, hl, e⟩ <;> rw [e] <;>
    simp only [State.vblankCount, compareEvents, List.countP_append, countP_irqStat, Nat.add_zero]
  · rw [if_neg (by omega), Nat.add_zero]
  · rw [if_neg (by omega), Nat.add_zero]
  · rw [if_pos ⟨by omega, hl⟩]
    rfl
  · rw [if_neg (by omega), Nat.add_zero]
  · rw [if_neg (by omega), Nat.add_zero]

theorem cycle_vblankCount (s : State) :
    (cycle s).vblankCount = s.vblankCount + if s.ly.val = 143 ∧ (cycle s).ly.val = 144 then 1 else 0 := by
  by_cases left : 1 < s.cd
  · rw [cycle_counting left, if_neg (by simp only; omega)]
    rfl
  · rw [cycle_spent (by omega)]
    exact transition_vblankCount _

/-- In a frame the cycle that takes the line from 143 to 144 is the one from position 65663. -/
theorem cycle_vblankCount_of_position {s : State} (h : SequencerInv s) (on : s.displayOn = true) :
    (cycle s).vblankCount = s.vblankCount + if s.framePosition = 65663 then 1 else 0 := by
  have here := lineOffset_range h on
  have there := lineOffset_range (cycle_sequencerInv h on) (by rw [cycle_displayOn, on])
  have step := cycle_framePosition h on
  rw [cycle_vblankCount]
  congr 2
  unfold State.framePosition at step ⊢
  exact propext ⟨by omega, by omega⟩

/-! ### A run of cycles -/

/-- How often line 144 has been entered `p` cycles after the start of a line 0: first after 65664 of them, then once a frame.
Below that the number is -1, so only differences are meant. -/
def vblanksUpTo (p : Int) : Int := (p - 65664) / 70224

/-- A run raises the interrupt each time it passes the start of line 144. -/
theorem cycles_vblankCount (n : Nat) {s : State} (h : SequencerInv s) (on : s.displayOn = true) :
    ((cycles n s).vblankCount : Int) =
      s.vblankCount + (vblanksUpTo (s.framePosition + n) - vblanksUpTo s.framePosition) := by
  induction n with
  | zero => simp [cycles]
  | succ n ih =>
    have last := cycle_vblankCount_of_position (cycles_sequencerInv n h on) (by rw [cycles_displayOn, on])
    rw [cycles_framePosition n h on] at last
    rw [cycles_add n 1, show cycles 1 (cycles n s) = cycle (cycles n s) from rfl, last]
    unfold vblanksUpTo at ih ⊢
    split <;> omega

/-- Settles O33: a frame's cycles pass the start of line 144 once, from any position; one cycle is the case above; any other
transaction keeps the interrupts of the trace. -/
theorem vBlankInterruptOncePerFrame : Obligations.VBlankInterruptOncePerFrame := by
  refine ⟨fun s inv on => ⟨fun t run => ?_, fun t run => ?_⟩, fun s t i hi run => ?_⟩
  · rw [eq_of_exec_tick on run, answer_vblankCount]
    have frame := cycles_vblankCount 70224 inv.sequencer on
    unfold vblanksUpTo at frame
    omega
  · rw [eq_of_exec_tick on run]
    exact cycle_vblankCount s
  · rw [vblankCount_eq_irqs, vblankCount_eq_irqs, exec_irqs hi run]

end Sys2Proof.Machine

/-! ## The compositor (46_compositor.md) -/

namespace Sys2Proof.Machine

/-! ### The background and the window (R302 to R305, R308) -/

/-- The window covers a pixel when it is enabled and neither its line nor its column, 7 to the left of `WX`, is beyond it. -/
theorem windowVisible_iff {s : State} {px : Nat} :
    windowVisible s px = true ↔ s.lcdc.getLsbD 5 = true ∧ s.wy.toNat ≤ s.ly.val ∧ s.wx.toNat ≤ px + 7 := by
  rw [windowVisible, Bool.and_eq_true, Bool.and_eq_true, decide_eq_true_eq, decide_eq_true_eq, and_assoc]
  exact and_congr_right' (and_congr_right' (by omega))

theorem windowVisible_eq_false_iff {s : State} {px : Nat} :
    windowVisible s px = false ↔ s.lcdc.getLsbD 5 = false ∨ s.ly.val < s.wy.toNat ∨ px + 7 < s.wx.toNat := by
  rw [← Bool.not_eq_true, windowVisible_iff, not_and_or, not_and_or, Bool.not_eq_true, not_le, not_le]

/-- The window's own coordinates are the distances from `WY` and from 7 to the left of `WX` (R304). -/
theorem windowPixelIndex_of_offset {s : State} {px mx my : Nat} (hy : s.ly.val = s.wy.toNat + my)
    (hx : px + 7 = s.wx.toNat + mx) :
    windowPixelIndex s px = mapPixelIndex s (mapBase (s.lcdc.getLsbD 6)) mx my := by
  have column : ((px : Int) - ((s.wx.toNat : Int) - 7)).toNat = mx := by omega
  have line : s.ly.val - s.wy.toNat = my := by omega
  rw [windowPixelIndex, column, line]

/-- Settles O38: the window is visible under the premises of its own clause and hidden under those of the others, so each
clause is one branch of the choice of layer. -/
theorem backgroundPixelPicksItsLayer : Obligations.BackgroundPixelPicksItsLayer := by
  intro s px
  refine ⟨rfl, fun _ => rfl, fun mx my on hy hx => ?window, fun hidden => ?_⟩
  case window =>
    have visible : windowVisible s px = true := windowVisible_iff.2 ⟨on, by omega, by omega⟩
    rw [bgPixelIndex, if_pos visible, windowPixelIndex_of_offset hy hx, mapBase]
  have below : bgPixelIndex s px = if s.lcdc.getLsbD 0 then backgroundPixelIndex s px else 0 := by
    rw [bgPixelIndex, windowVisible_eq_false_iff.2 hidden]
    rfl
  refine ⟨fun on => ?background, fun off => ?fill⟩
  case background => rw [below, if_pos on, backgroundPixelIndex, mapBase]
  case fill => rw [below, off]; rfl

/-! ### The pattern tables (R306, R307) -/

/-- The alternate table's offset of 128 tiles moves its base from `0x8800` to `0x9000`, for a signed index (R306). -/
theorem tileRowAddr_eq (s : State) (idx : Byte) (r : Nat) :
    (tileRowAddr s idx r : Int) =
      (if s.lcdc.getLsbD 4 then 0x8000 + 16 * (idx.toNat : Int) else 0x9000 + 16 * idx.toInt) + 2 * (r : Int) := by
  have signed : -128 ≤ idx.toInt := BitVec.le_toInt idx
  unfold tileRowAddr
  split <;> omega

/-- Settles O39: the address named is the row's, and the rest is how the pixel of a map position is read. -/
theorem mapPixelFollowsThePatternTable : Obligations.MapPixelFollowsThePatternTable := by
  rintro s base mx my addr _ rfl haddr
  have row : addr = tileRowAddr s (mapTile s base mx my) (my % 8) :=
    Int.ofNat_inj.1 (haddr.trans (tileRowAddr_eq s _ _).symm)
  rw [row]
  rfl

/-! ### The sprites over it (R310 to R312) -/

theorem spriteDrawn_iff {s : State} {px : Nat} {bgIdx : PixelIndex} {sp : Sprite} :
    spriteDrawn s px bgIdx sp = true ↔
      sp.x ≤ px ∧ (px : Int) < sp.x + 8 ∧ spritePixelIndex s sp px ≠ 0 ∧ (bgIdx = 0 ∨ sp.flags.getLsbD 7 = false) := by
  simp only [spriteDrawn, Sprite.covers, Sprite.behindBg, Bool.and_eq_true, Bool.or_eq_true, Bool.not_eq_true',
    decide_eq_true_eq, bne_iff_ne, beq_iff_eq, and_assoc]

/-- MONO's palette selector is one bit of the flags, as a number (R311). -/
theorem palSel_mono (sp : Sprite) : sp.palSel .mono = BitVec.ofNat 3 (sp.flags.getLsbD 4).toNat := by
  have bit : sp.flags.extractLsb' 4 1 = BitVec.ofBool (sp.flags.getLsbD 4) := by
    ext i hi
    obtain rfl : i = 0 := by omega
    simp
  rw [Sprite.palSel, bit]
  cases sp.flags.getLsbD 4 <;> rfl

theorem spritePixel_of_off {s : State} (off : s.lcdc.getLsbD 1 = false) (px : Nat) (bgIdx : PixelIndex) (bgColor : Color) :
    spritePixel s px bgIdx bgColor = bgColor := by
  rw [spritePixel, off]
  rfl

theorem spritePixel_of_first {s : State} {px : Nat} {bgIdx : PixelIndex} {sp : Sprite} (on : s.lcdc.getLsbD 1 = true)
    (first : s.spr.find? (spriteDrawn s px bgIdx) = some sp) (bgColor : Color) :
    spritePixel s px bgIdx bgColor = spriteColor s px sp := by
  rw [spritePixel, if_pos on, first]

theorem spritePixel_of_none {s : State} {px : Nat} {bgIdx : PixelIndex}
    (none : s.spr.find? (spriteDrawn s px bgIdx) = none) (bgColor : Color) : spritePixel s px bgIdx bgColor = bgColor := by
  rw [spritePixel, none]
  exact ite_self _

/-- Settles O40: each clause is the draw test written out, which the entries before the winner fail and the winner passes. -/
theorem firstDrawnSpriteWins : Obligations.FirstDrawnSpriteWins := by
  intro s px bgIdx bgColor
  simp only [← spriteDrawn_iff]
  refine ⟨fun off => spritePixel_of_off off px bgIdx bgColor,
    fun before after sp on list skipped left right index front => ?_,
    fun undrawn => spritePixel_of_none (List.find?_eq_none.2 undrawn) bgColor⟩
  have drawn : spriteDrawn s px bgIdx sp = true := spriteDrawn_iff.2 ⟨left, right, index, front⟩
  have first : s.spr.find? (spriteDrawn s px bgIdx) = some sp :=
    List.find?_eq_some_iff_append.2 ⟨drawn, before, after, list, fun q hq => by simp [skipped q hq]⟩
  rw [spritePixel_of_first on first, spriteColor]
  cases s.cfg.variant with
  | color => rfl
  | mono => exact congrArg (resolve s _ · .obj) (palSel_mono sp)

end Sys2Proof.Machine

/-! ## Totality, the driver's cells, interrupts and `RESET` (60_exceptions.md R340, R342, R347, 70_reset_and_hazards.md R370) -/

namespace Sys2Proof.Machine

/-! ### Every transaction ends in a next state (R340) -/

theorem busRead_total (r : Reg) (s : State) : ∃ t, busRead r s = .next t := by
  cases hv : r.inVariant s.cfg.variant with
  | true => exact ⟨_, busRead_accepted hv⟩
  | false => exact ⟨_, busRead_unaccepted hv⟩

theorem busWrite_total (r : Reg) (val : Byte) (f : State → State) (s : State) : ∃ t, busWrite r val f s = .next t := by
  cases hv : r.inVariant s.cfg.variant with
  | true => exact ⟨_, busWrite_accepted val f hv⟩
  | false => exact ⟨_, busWrite_unaccepted val f hv⟩

theorem exec_reset (s : State) : exec .reset s = .next ((resetBlock s).answer .nothing) := rfl

theorem exec_total (i : Instr) (s : State) : ∃ t, exec i s = .next t := by
  rcases instr_cases i with ⟨r, rfl⟩ | ⟨r, v, rfl⟩ | ⟨n, rfl⟩ | rfl
  · rw [exec_rdInstr]
    exact busRead_total r s
  · rw [exec_wrInstr]
    exact busWrite_total r v _ s
  · cases display : s.lcdc.getLsbD 7 with
    | true => exact ⟨_, exec_tick_on display n⟩
    | false => exact ⟨_, exec_tick_off display n⟩
  · exact ⟨_, exec_reset s⟩

/-- A word is a row of the table, or the driver's own access to the platform. -/
theorem runWord_total (w : TransWord) (s : State) : ∃ t, runWord w s = .next t := by
  unfold runWord
  split
  · exact exec_total _ s
  · exact ⟨_, rfl⟩
  · exact ⟨_, rfl⟩

/-- Settles O42: a read and a write end at the block or at the platform, a tick with the display on or off; a step runs the
oldest word, or stands still. -/
theorem nothingEverStops : Obligations.NothingEverStops := by
  refine ⟨exec_total, fun s => ?_⟩
  unfold step
  split
  · exact ⟨_, rfl⟩
  · exact runWord_total _ _

/-! ### What a tick leaves alone (R347) -/

/-- Settles O35: with the display on it is the frame of a run of cycles, with the display off nothing but the answer changes. -/
theorem tickLeavesTheDriversCells : Obligations.TickLeavesTheDriversCells := by
  intro s n
  cases display : s.lcdc.getLsbD 7 with
  | true =>
    obtain ⟨es, frame⟩ := cycles_frame n s
    refine ⟨(cycles n s).mode, (cycles n s).cd, (cycles n s).ly, (cycles n s).spr, (cycles n s).sprH, (cycles n s).fb,
      es, true, ?_⟩
    rw [exec_tick_on display]
    exact congrArg (Host.Outcome.next <| State.answer (.consumed true) ·) frame
  | false =>
    refine ⟨s.mode, s.cd, s.ly, s.spr, s.sprH, s.fb, [], false, ?_⟩
    rw [exec_tick_off display, List.append_nil]
    rfl

/-! ### Interrupt requests (R342, R345) -/

/-- Settles O46: `exec_irqs`, which the count of vertical-blank interrupts rests on too. -/
theorem onlyTicksRaiseInterrupts : Obligations.OnlyTicksRaiseInterrupts :=
  fun _ _ _ => exec_irqs

/-! ### The frame buffer after `RESET` (R370) -/

theorem resetBlock_fb_mono {s : State} (hv : s.cfg.variant = .mono) :
    (resetBlock s).fb = FrameBuffer.fill s.cfg.shade[0] := by
  simp only [resetBlock, hv]
  exact congrArg FrameBuffer.fill (resolve_mono hv 0 0 .bg)

/-- The palettes are reset before the fill, so every colour is that of two bytes `0xFF`. -/
theorem resetBlock_fb_color {s : State} (hv : s.cfg.variant = .color) :
    (resetBlock s).fb = FrameBuffer.fill 0x7FFF := by
  have white : paletteColor (Vector.replicate 64 0xFF#8) 0 0 = 0x7FFF := by decide
  simp only [resetBlock, hv]
  rw [resolve_color_bg (by exact hv)]
  exact congrArg FrameBuffer.fill white

/-- The values of power-on are those `RESET` writes, and the cells it leaves alone in MONO hold them already. -/
theorem resetBlock_resetWith (c : Config) : resetBlock (State.resetWith c) = State.resetWith c := by
  cases hv : c.variant with
  | mono =>
    rw [resetBlock_mono hv, resetBlock_fb_mono hv]
    simp only [State.resetWith, hv]
    rfl
  | color =>
    rw [resetBlock_color hv, resetBlock_fb_color hv]
    simp only [State.resetWith, hv]
    rfl

/-- Settles O49: the frame of `RESET` in each variant, the fill read entry by entry, and power-on as its fixed point. -/
theorem resetRestoresTheDocumentedValues : Obligations.ResetRestoresTheDocumentedValues := by
  refine ⟨fun s => ⟨(resetBlock s).fb, fun color => ⟨fun k hk => ?_, ?_⟩, fun mono => ⟨fun k hk => ?_, ?_⟩⟩, fun c => ?_⟩
  · rw [resetBlock_fb_color color, entry_fill _ hk]
  · rw [exec_reset, resetBlock_color color]
    rfl
  · rw [resetBlock_fb_mono mono, entry_fill _ hk]
    exact (Vector.getElem?_eq_getElem _).symm
  · rw [exec_reset, resetBlock_mono mono]
    rfl
  · rw [exec_reset, resetBlock_resetWith]
    rfl

end Sys2Proof.Machine
